-- ==== Sys2Proof/Word.lean ====
section
/-! DEFINITION. The words of the block (spec/30_encoding.md R80, 20_memory.md R52): their widths and nothing else.
There is no byte order among them but the one of a packet's bytes (R57), which Machine/Operands.lean fixes. -/

namespace Sys2Proof

/-- One byte of the transmit buffer (R55). -/
abbrev Byte := BitVec 8

/-- A command word at port `P` or `T`, format `CMD` (R81). -/
abbrev CmdWord := BitVec 32

/-- A request word on the internal queue bus `Q`, format `QREQ` (R85). -/
abbrev QReqWord := BitVec 26

/-- The answer to a request on bus `Q`: the bit `ok`, then 24 entry bits (R86). -/
abbrev AnswerWord := BitVec 25

/-- A queue entry as one word, format `ENTRY` (R52, R87). -/
abbrev EntryWord := BitVec 24

/-- A USB-MIDI event packet as one number, byte 0 in bits 31:24 (R88; the numbering of opcode_table.json). -/
abbrev PktWord := BitVec 32

end Sys2Proof
end

