-- ==== Sys2Proof/Config.lean ====
section
/-! DEFINITION. The constants of the block, one table (spec/00_scope.md R6), the bounds of its two open parameters
(R7), and the parameter values the reset state is built with (log 1). The parameters themselves live in the state:
`N` is the length of its `lrv` file and `C` its field `capacity`, so that a statement about every state is a
statement about every `N` and `C`. -/

namespace Sys2Proof.Config

/-- `RAW_BITS` (R6): the width of a raw sample. -/
abbrev rawBits : Nat := 12
/-- `HALF_BIN` (R6): half the width of a bin. -/
def halfBin : Int := 16
/-- `GUARD` (R6): the guard band beyond the bin, on each side. -/
def guard : Int := 8
/-- `HYST` (R6), `HALF_BIN + GUARD`: how far the window reaches from the bin's centre, on each side. -/
def hyst : Int := 24
/-- `BIN_WIDTH` (R6): 32 raw codes a bin. -/
def binWidth : Int := 32
/-- `BIN_SHIFT` (R6): `candidate = raw >> 5`. -/
def binShift : Nat := 5
/-- `CC_BASE` (R6): the controller number is the channel index plus 11. -/
def ccBase : Nat := 11
/-- `PB_CENTER` (R6): the centre of the 14-bit domain. -/
def pbCenter : Int := 8192
/-- `PB_MAX` (R6): the top of the 14-bit domain. -/
def pbMax : Int := 16383
/-- `PB_EXPAND_SHIFT` (R6): `expanded = raw << 2`. -/
def pbExpandShift : Nat := 2
/-- `PB_THRESHOLD` (R6): the noise gate on `|delta|`. -/
def pbThreshold : Int := 31
/-- `PB_DAMP_DIV` (R6): the smoother adds a quarter of `delta`. -/
def pbDampDiv : Int := 4
/-- `PB_SCALE_NUM` (R6). -/
def pbScaleNum : Int := 1008
/-- `PB_SCALE_DEN` (R6). -/
def pbScaleDen : Int := 1000
/-- `PB_DEADBAND` (R6). -/
def pbDeadband : Int := 100
/-- `MAXP` (R6): the endpoint's maximum packet size and the size of the transmit buffer, in bytes. -/
def maxPacket : Nat := 64
/-- `PKT_BYTES` (R6): the size of one USB-MIDI event packet. -/
def packetBytes : Nat := 4
/-- `MAX_EVENTS_PER_DRAIN` (R6): `floor(MAXP / PKT_BYTES)`. -/
def maxEventsPerDrain : Nat := 16
/-- `CIN_CC` (R6): byte 0 of a control-change packet. -/
def cinCc : Byte := 0x0B#8
/-- `STATUS_CC` (R6): byte 1 of a control-change packet. -/
def statusCc : Byte := 0xB0#8
/-- `CIN_PB` (R6): byte 0 of a pitch-bend packet. -/
def cinPb : Byte := 0x0E#8
/-- `STATUS_PB` (R6): byte 1 of a pitch-bend packet. -/
def statusPb : Byte := 0xE0#8
/-- `TAG_PB` (20_memory.md R52): the PitchBend marker, which is no channel index. -/
def tagPb : BitVec 8 := 0xFF#8

/-- The largest `N` (R7): above it a controller number would not fit 7 bits. -/
def maxChannels : Nat := 117
/-- The smallest `C` (R7). -/
def minCapacity : Nat := 2
/-- The largest `C` (R7). -/
def maxCapacity : Nat := 65536

/-- DESIGN CHOICE (log 1, unsafe where a statement rests on it): `N` of the reset state, the value of the spec's
test vectors (95_test_vectors.md). -/
def resetChannels : Nat := 4
/-- DESIGN CHOICE (log 1, unsafe where a statement rests on it): `C` of the reset state, one of the test vectors'
values, large enough for the source's own case of 17 pending events (R188). -/
def resetCapacity : Nat := 32

end Sys2Proof.Config

namespace Sys2Proof

/-- A raw sample, the Sampler's successful result: an unsigned `RAW_BITS`-bit integer (00_scope.md section 6). -/
abbrev RawSample := BitVec Config.rawBits

end Sys2Proof
end

