-- ==== Sys2Proof/Syntax.lean ====
section
/-! DEFINITION. The operations of the block, one constructor per row of spec/opcode_table.json, and the small types
their operands need. Semantics stand in Machine/. -/

namespace Sys2Proof

/-- The two external ports (spec/00_scope.md R9): `P` takes the producer's operations, `T` the consumer's and the
environment's. -/
inductive Port where
  | P
  | T
deriving DecidableEq, Repr

/-- What the Sampler returned for a channel on this scan cycle (30_encoding.md R83). The fourth code is reserved. -/
inductive SamplerResult where
  | sample
  | unavailable
  | invalidChannel
deriving DecidableEq, Repr

/-- The operations (30_encoding.md R82), the two internal queue requests (R85) and the two output records
(R89, R90). -/
inductive Instr where
  /-- SAMPLE_CC, one scan step of the QuantizerFilter of channel `ch` (40_quantizer.md R114). -/
  | sampleCc (res : SamplerResult) (ch : BitVec 8) (raw : RawSample)
  /-- SAMPLE_PB, one scan step of the PitchBendFilter (41_pitchbend.md R136). -/
  | samplePb (res : SamplerResult) (raw : RawSample)
  /-- FRAME_NOTIFY, which runs the Packetizer once (43_packetizer.md R178). -/
  | frameNotify
  /-- ENABLE (44_mode_control.md R191). -/
  | enable
  /-- DISABLE (44_mode_control.md R192). -/
  | disable
  /-- ENQ, the producer's request on bus `Q` (42_event_queue.md R152). -/
  | enq (tag : BitVec 8) (value : BitVec 14)
  /-- DEQ, the consumer's request on bus `Q` (42_event_queue.md R155). -/
  | deq
  /-- PKT_CC, a control-change packet record (30_encoding.md R89). -/
  | pktCc (controller : BitVec 7) (value : BitVec 7)
  /-- PKT_PB, a pitch-bend packet record: the low and the high 7 bits of the value (30_encoding.md R90). -/
  | pktPb (lsb : BitVec 7) (msb : BitVec 7)
deriving DecidableEq, Repr

/-- One `(tag, value)` pair of the queue (20_memory.md R52). Bits 15:14 of its word are always zero, so they are not
held. -/
structure Entry where
  tag : BitVec 8
  value : BitVec 14
deriving DecidableEq, Repr

/-- A packet the block produces: two kinds and no other (30_encoding.md R88, R94). -/
inductive Packet where
  /-- `[0x0B, 0xB0, controller, value]` (R89). -/
  | control (controller : BitVec 7) (value : BitVec 7)
  /-- `[0x0E, 0xE0, lsb, msb]` (R90). -/
  | pitchBend (lsb : BitVec 7) (msb : BitVec 7)
deriving DecidableEq, Repr

end Sys2Proof
end

