-- ==== Sys2Proof/WellFormed.lean ====
section
/-! DEFINITION. Well-formed operands: the requests and records the block itself produces (spec/30_encoding.md R85,
R89, R94; 20_memory.md R52). Every term of Instr has an encoding, and the machine gives the ill-formed ones the
effect of the spec's pseudocode too (log 11, 12); what the block's own filters and Packetizer issue is well formed. -/

namespace Sys2Proof

/-- An entry whose tag names one of `n` channels, with a 7-bit value, or carries the PitchBend marker (R52, R161). -/
def Entry.legal (n : Nat) (e : Entry) : Bool :=
  e.tag == Config.tagPb || (decide (e.tag.toNat < n) && decide (e.value.toNat ≤ 127))

/-- A controller number below 11 is never produced (R89, R94). -/
def Packet.wellFormed : Packet → Bool
  | .control c _ => decide (Config.ccBase ≤ c.toNat)
  | .pitchBend _ _ => true

/-- The operands the spec's formats allow: any command word's operands; an ENQ with a tag and value of R52 for the
largest `N`; a control-change record with a controller number of R89. -/
def Instr.wellFormed : Instr → Bool
  | .sampleCc _ _ _ => true
  | .samplePb _ _ => true
  | .frameNotify => true
  | .enable => true
  | .disable => true
  | .enq tag value => Entry.legal Config.maxChannels { tag := tag, value := value }
  | .deq => true
  | .pktCc c v => (Packet.control c v).wellFormed
  | .pktPb l m => (Packet.pitchBend l m).wellFormed

end Sys2Proof
end

