-- ==== Sys2Proof/Decode.lean ====
section
/-! DEFINITION. The decoders of the four formats (spec/30_encoding.md R80 to R94) and the encoder written from the same
tables. Every decoder is total and rejects by name. Command words arrive at a port, request words on bus `Q`, and
packet records at the transmit buffer; `decode` joins the three for one 32-bit number, the way opcode_table.json
numbers its rows (log 13, 14). -/

namespace Sys2Proof

/-- Why a word is no operation. For a command word every reason is the same illegality of R93. -/
inductive Reject where
  /-- `op` is none of the five operation codes (R93). -/
  | reservedOp
  /-- `op` belongs to the other port (R84). -/
  | wrongPort
  /-- A field that must be zero is not (R81, R85, R93). -/
  | mustBeZero
  /-- `res = 3` (R83). -/
  | reservedRes
  /-- `qop = 0b00`: there is no request on the bus (R85). -/
  | noRequest
  /-- `qop = 0b11`, reserved and never generated (R85). -/
  | reservedRequest
  /-- The four bytes are neither kind of packet (R94). -/
  | notAPacket
deriving DecidableEq, Repr

/-! ### Command words (R81 to R84, R93) -/

/-- `c[31:28]`. -/
def cmdOp (c : CmdWord) : BitVec 4 := c.extractLsb' 28 4
/-- `c[27:26]`. -/
def cmdRes (c : CmdWord) : BitVec 2 := c.extractLsb' 26 2
/-- `c[25:24]`, must be zero. -/
def cmdZeroA (c : CmdWord) : BitVec 2 := c.extractLsb' 24 2
/-- `c[23:16]`. -/
def cmdCh (c : CmdWord) : BitVec 8 := c.extractLsb' 16 8
/-- `c[15:12]`, must be zero. -/
def cmdZeroB (c : CmdWord) : BitVec 4 := c.extractLsb' 12 4
/-- `c[11:0]`. -/
def cmdRaw (c : CmdWord) : RawSample := c.extractLsb' 0 Config.rawBits

/-- The port that accepts an operation code, if any does (R82, R84). -/
def opPort (op : BitVec 4) : Option Port :=
  if op = 0x1#4 ∨ op = 0x2#4 then some .P
  else if op = 0x8#4 ∨ op = 0xC#4 ∨ op = 0xD#4 then some .T
  else none

/-- The `res` field (R83). -/
def decodeRes (r : BitVec 2) : Except Reject SamplerResult :=
  if r = 0#2 then .ok .sample
  else if r = 1#2 then .ok .unavailable
  else if r = 2#2 then .ok .invalidChannel
  else .error .reservedRes

/-- The operation of a word whose `op` is legal and whose reserved bits are zero. -/
def decodeCmdFields (op : BitVec 4) (res : BitVec 2) (ch : BitVec 8) (raw : RawSample) : Except Reject Instr :=
  if op = 0x1#4 then
    match decodeRes res with
    | .ok r => .ok (.sampleCc r ch raw)
    | .error e => .error e
  else if op = 0x2#4 then
    if ch ≠ 0#8 then .error .mustBeZero
    else match decodeRes res with
      | .ok r => .ok (.samplePb r raw)
      | .error e => .error e
  else if res ≠ 0#2 ∨ ch ≠ 0#8 ∨ raw ≠ 0#Config.rawBits then .error .mustBeZero
  else if op = 0x8#4 then .ok .frameNotify
  else if op = 0xC#4 then .ok .enable
  else if op = 0xD#4 then .ok .disable
  else .error .reservedOp

/-- The operation a command word stands for at port `p` (R81 to R84); an error is an illegal word (R93). -/
def decodeCmd (p : Port) (c : CmdWord) : Except Reject Instr :=
  match opPort (cmdOp c) with
  | none => .error .reservedOp
  | some q =>
    if q ≠ p then .error .wrongPort
    else if cmdZeroA c ≠ 0#2 ∨ cmdZeroB c ≠ 0#4 then .error .mustBeZero
    else decodeCmdFields (cmdOp c) (cmdRes c) (cmdCh c) (cmdRaw c)

/-! ### Queue requests (R85) -/

/-- The request a word on bus `Q` stands for (R85). -/
def decodeQreq (q : QReqWord) : Except Reject Instr :=
  if q.extractLsb' 24 2 = 0b00#2 then .error .noRequest
  else if q.extractLsb' 24 2 = 0b01#2 then
    if q.extractLsb' 14 2 ≠ 0#2 then .error .mustBeZero
    else .ok (.enq (q.extractLsb' 16 8) (q.extractLsb' 0 14))
  else if q.extractLsb' 24 2 = 0b10#2 then
    if q.extractLsb' 0 24 ≠ 0#24 then .error .mustBeZero else .ok .deq
  else .error .reservedRequest

/-! ### Packet records (R88 to R90, R94) -/

/-- The packet four bytes stand for, byte 0 in bits 31:24 (R89, R90). -/
def decodePkt (w : PktWord) : Except Reject Instr :=
  if w.extractLsb' 15 1 ≠ 0#1 ∨ w.extractLsb' 7 1 ≠ 0#1 then .error .notAPacket
  else if w.extractLsb' 24 8 = Config.cinCc ∧ w.extractLsb' 16 8 = Config.statusCc then
    .ok (.pktCc (w.extractLsb' 8 7) (w.extractLsb' 0 7))
  else if w.extractLsb' 24 8 = Config.cinPb ∧ w.extractLsb' 16 8 = Config.statusPb then
    .ok (.pktPb (w.extractLsb' 8 7) (w.extractLsb' 0 7))
  else .error .notAPacket

/-! ### The formats together -/

/-- Where a word appears (R80). -/
inductive Format where
  | cmd (p : Port)
  | qreq
  | pkt
deriving DecidableEq, Repr

/-- The format of a 32-bit number: an operation code of R82 in its top nibble; else byte 0 of a packet; else a 26-bit
request with zeros above it. A number with none of these is a command word with a reserved `op`. -/
def wordFormat (w : BitVec 32) : Format :=
  match opPort (cmdOp w) with
  | some p => .cmd p
  | none =>
    if w.extractLsb' 24 8 = Config.cinCc ∨ w.extractLsb' 24 8 = Config.cinPb then .pkt
    else if w.extractLsb' 24 8 = 0x01#8 ∨ w.extractLsb' 24 8 = 0x02#8 then .qreq
    else .cmd .P

/-- The operation of a 32-bit number in whichever format it has. -/
def decode (w : BitVec 32) : Except Reject Instr :=
  match wordFormat w with
  | .cmd p => decodeCmd p w
  | .qreq => decodeQreq (w.extractLsb' 0 26)
  | .pkt => decodePkt w

/-- The host's question: the instruction the decoder reads from `nbits` bits numbered as opcode_table.json numbers
them; bits above them are zero. -/
def decodeTableWord (nbits w : Nat) : Option Instr :=
  if w % 2 ^ nbits < 2 ^ 32 then (decode (BitVec.ofNat 32 (w % 2 ^ nbits))).toOption else none

/-! ### The encoder -/

/-- The `res` field of a Sampler result (R83). -/
def SamplerResult.code : SamplerResult → BitVec 2
  | .sample => 0#2
  | .unavailable => 1#2
  | .invalidChannel => 2#2

/-- A command word from its fields, most significant first (R81). -/
def cmdWord (op : BitVec 4) (res : BitVec 2) (ch : BitVec 8) (raw : RawSample) : CmdWord :=
  op ++ (res ++ (0#2 ++ (ch ++ (0#4 ++ raw))))

/-- A request word from its fields, most significant first (R85). -/
def qreqWord (qop : BitVec 2) (tag : BitVec 8) (value : BitVec 14) : QReqWord :=
  qop ++ (tag ++ (0#2 ++ value))

/-- A packet record from its bytes, byte 0 in the most significant place (R88). -/
def pktWord (byte0 byte1 : Byte) (data1 data2 : BitVec 7) : PktWord :=
  byte0 ++ (byte1 ++ (0#1 ++ (data1 ++ (0#1 ++ data2))))

/-- The word of an instruction; a request's 26 bits stand under six zeros. -/
def encode : Instr → BitVec 32
  | .sampleCc res ch raw => cmdWord 0x1#4 res.code ch raw
  | .samplePb res raw => cmdWord 0x2#4 res.code 0#8 raw
  | .frameNotify => cmdWord 0x8#4 0#2 0#8 0#Config.rawBits
  | .enable => cmdWord 0xC#4 0#2 0#8 0#Config.rawBits
  | .disable => cmdWord 0xD#4 0#2 0#8 0#Config.rawBits
  | .enq tag value => (qreqWord 0b01#2 tag value).setWidth 32
  | .deq => (qreqWord 0b10#2 0#8 0#14).setWidth 32
  | .pktCc c v => pktWord Config.cinCc Config.statusCc c v
  | .pktPb l m => pktWord Config.cinPb Config.statusPb l m

/-- An entry as its 24-bit word `{tag, 0b00, value}` (R52, R87). -/
def Entry.word (e : Entry) : EntryWord := e.tag ++ (0#2 ++ e.value)

/-- An answer on bus `Q`: `{ok, entry}` (R86). -/
def answerWord (ok : Bool) (e : EntryWord) : AnswerWord := BitVec.ofBool ok ++ e

end Sys2Proof
end

