-- ==== Sys2Proof/Machine/State.lean ====
section
/-! DEFINITION. The state of the block as plain data (spec/10_state.md R20 to R38), the reasons a step can stop, and
the state after reset (R39, 70_reset_and_hazards.md R230). Fields the spec does not give the machine are marked as
the model's own. -/

namespace Sys2Proof.Machine

/-- Why the machine stops with no step to take. Every one is safe: the spec gives such an execution no meaning. -/
inductive Fault where
  /-- ENABLE or DISABLE while an operation is in progress: stuck (93_implementation_defined.md U13). Raised by the
  delivery of a command word. Safe. -/
  | stuckModeChange
  /-- TRANSFER_DONE while no transfer is in flight: not enabled (43_packetizer.md R181). Safe. -/
  | stuckTransferDone
  /-- RESET while an operation is in progress (70_reset_and_hazards.md R230). Safe. -/
  | stuckReset
  /-- Idle entry while an operation is in progress (70_reset_and_hazards.md R243). Safe. -/
  | stuckIdle
  /-- A transport read outside the bytes in flight (43_packetizer.md R182, 70 R250). Safe. -/
  | stuckTransportRead
  /-- A DEQ met a slot that was never written (10_state.md R39, 93 U10); raised by DEQ and FRAME_NOTIFY in states no
  run reaches. Safe. -/
  | slotNotWritten
  /-- A SUBMIT met a byte that was never written (10_state.md R39, 93 U10); raised by the last micro-step of
  FRAME_NOTIFY in states no run reaches. Safe. -/
  | byteNotWritten
deriving DecidableEq, Repr

/-- Why the machine gives a step no meaning. Every one is safe. -/
inductive Refusal where
  /-- An instruction the model has no meaning for yet; raised by exec's refused arms only. Safe. -/
  | notModelled (mnemonic : String)
  /-- A second operation on a port whose operation is still in progress (93_implementation_defined.md U9, 70 R240);
  raised by the delivery of an operation. Safe. -/
  | portOccupied (port : Port)
  /-- A dequeued tag that is neither the PitchBend marker nor a channel index (43_packetizer.md R187, 93 U12);
  raised by FRAME_NOTIFY. Safe. -/
  | unknownTag (tag : BitVec 8)
  /-- A word on bus `Q` that the block never generates (30_encoding.md R85, R94). Safe. -/
  | neverGenerated
  /-- Four bytes that are no packet of the block (30_encoding.md R94). Safe. -/
  | notAPacket
  /-- A packet record when the buffer has no room for it (43_packetizer.md R172, R175); raised by PKT_CC and PKT_PB.
  Safe. -/
  | transmitBufferFull
  /-- A packet record while the transport owns the buffer (20_memory.md R70, 70 R241); raised by PKT_CC and PKT_PB.
  Safe. -/
  | transmitBufferInFlight
deriving DecidableEq, Repr

/-- The status codes (60_exceptions.md R200); codes 10 to 15 are never written, so they have no constructor. -/
inductive Status where
  | noEvent
  | enqueued
  | queueFull
  | sampleTimeout
  | invalidChannel
  | illegalOp
  | endpointBusy
  | noTransfer
  | submitted
  | modeOk
deriving DecidableEq, Repr

/-- The device enablement state as the block sees it (R28, 44_mode_control.md R190). -/
inductive Mode where
  | disabled
  | enabled
deriving DecidableEq, Repr

/-- A SAMPLE operation as it was accepted at port `P`. -/
inductive SampleOp where
  | control (res : SamplerResult) (ch : BitVec 8) (raw : RawSample)
  | pitchBend (res : SamplerResult) (raw : RawSample)
deriving DecidableEq, Repr

/-- What a filter asks the queue to hold, and so which cached value it advances on success (40 R115, 41 R135). -/
inductive Report where
  | control (ch : BitVec 8) (cand : BitVec 7)
  | pitchBend (fixedup : BitVec 14)
deriving DecidableEq, Repr

/-- The operation in progress on port `P` and its next micro-step (R26; 42_event_queue.md R152). -/
inductive ProducerPhase where
  /-- No operation in progress. -/
  | idle
  /-- Accepted; the filter's own lines are next (40 R114 lines 1 to 5, 41 R136 lines 1 to 6). -/
  | sampled (op : SampleOp)
  /-- EQ1 is next. -/
  | eq1 (r : Report)
  /-- EQ2 is next; `nxt` is the index EQ1 computed. -/
  | eq2 (r : Report) (nxt : Nat)
  /-- EQ3 is next. -/
  | eq3 (r : Report) (nxt : Nat)
  /-- ENQ has answered; the cached value and the status are next. -/
  | answered (r : Report) (ok : Bool)
deriving DecidableEq, Repr

/-- The operation in progress on port `T` and its next micro-step (R26; 43_packetizer.md R178, 42 R155). -/
inductive ConsumerPhase where
  /-- No operation in progress. -/
  | idle
  /-- FN1, the busy check, is next. -/
  | fn1
  /-- FN2, `txn <- 0`, is next. -/
  | fn2
  /-- FN3's room test is next. -/
  | fn3
  /-- DQ1 is next. -/
  | dq1
  /-- DQ2 is next. -/
  | dq2
  /-- DQ3 is next; `nxt` is the index DQ2 computed. -/
  | dq3 (nxt : Nat)
  /-- The packet write for the entry DEQ answered is next. -/
  | write (e : Entry)
  /-- FN4, the submission, is next. -/
  | fn4
deriving DecidableEq, Repr

/-- One submitted transfer (R37): the bytes of `tx` at the moment of SUBMIT, their number, and the short flag. -/
structure Transfer where
  bytes : List Byte
  len : Nat
  short : Bool
deriving DecidableEq, Repr

/-- One move of one agent: the rows of 70_reset_and_hazards.md R250, at both grains of 20_memory.md R65, and (the last
two) a bare request on bus `Q` and a bare packet record, which only the inside of the block makes (30 R85, log 10). -/
inductive Event where
  /-- A command word at a port; the whole operation is this one step (20_memory.md R65 (b)). -/
  | command (p : Port) (w : CmdWord)
  /-- A command word at a port; the operation begins, and its micro-steps follow (20_memory.md R60). -/
  | present (p : Port) (w : CmdWord)
  /-- The next micro-step of the operation in progress on a port. -/
  | micro (p : Port)
  /-- The environment step TRANSFER_DONE (43_packetizer.md R181). -/
  | transferDone
  /-- The environment step RESET (70_reset_and_hazards.md R230). -/
  | reset
  /-- The environment enters idle (70_reset_and_hazards.md R243). -/
  | enterIdle
  /-- The transport reads a byte of the transfer in flight (20_memory.md R70, 43 R182). -/
  | transportRead (off : Nat)
  /-- A bare word on bus `Q`. -/
  | request (q : QReqWord)
  /-- A bare packet record at the transmit buffer. -/
  | record (w : PktWord)
deriving DecidableEq, Repr

/-- Everything the spec gives the machine, and the model's own fields. -/
structure State where
  /-- `lrv[0..N-1]`, the last reported values (R21); its length is the parameter `N` (R7). -/
  lrv : List (BitVec 7)
  /-- `sm`, the smoothed pitch-bend position (R22). -/
  sm : Int
  /-- `ls`, the last pitch-bend value sent; `none` is `UNSET` (R23). -/
  ls : Option (BitVec 14)
  /-- `mode` (R28). -/
  mode : Mode
  /-- `rd`, the read index (R29). -/
  rd : Nat
  /-- `wr`, the write index (R30). -/
  wr : Nat
  /-- `slot[0..C-1]` (R35): the slots written since reset, rising by index. -/
  slots : List (Nat × Entry)
  /-- `tx[0..63]` (R36): the bytes written since reset, rising by offset. -/
  tx : List Host.Cell
  /-- `txn`, the bytes placed in `tx` by the current or last drain (R32). -/
  txn : Nat
  /-- `pstat`, the status register of port `P` (R33). -/
  pstat : Status
  /-- `tstat`, the status register of port `T` (R33). -/
  tstat : Status
  /-- `ep_busy`, the environment's bit: a transfer is in flight (R34). -/
  epBusy : Bool
  /-- `txlog`, the transfers submitted since reset, oldest first (R37). -/
  txlog : List Transfer
  /-- The phase of the producer's operation (R26). -/
  producer : ProducerPhase
  /-- The phase of the consumer's operation (R26). -/
  consumer : ConsumerPhase
  /-- The parameter `C` (R7), which no step changes (log 1). -/
  capacity : Nat
  /-- The model's own field: the last answer of bus `Q` to an ENQ (30_encoding.md R86, log 9). -/
  enqAnswer : Option AnswerWord
  /-- The model's own field: the last answer of bus `Q` to a DEQ (30_encoding.md R86, log 9). -/
  deqAnswer : Option AnswerWord
  /-- The model's own field: what the agents do next, oldest first (20_memory.md R60, log 2). -/
  events : List Event
deriving DecidableEq, Repr

/-- The state after RESET for given parameters (R39, 70_reset_and_hazards.md R230). -/
def State.resetWith (n c : Nat) : State where
  lrv := List.replicate n 0#7
  sm := Config.pbCenter
  ls := none
  mode := .disabled
  rd := 0
  wr := 0
  slots := []
  tx := []
  txn := 0
  pstat := .noEvent
  tstat := .noEvent
  epBusy := false
  txlog := []
  producer := .idle
  consumer := .idle
  capacity := c
  enqAnswer := none
  deqAnswer := none
  events := []

/-- The machine right after reset, with the parameter values of log 1. -/
def State.reset : State := State.resetWith Config.resetChannels Config.resetCapacity

end Sys2Proof.Machine
end

