-- ==== Sys2Proof/Machine/Operands.lean ====
section
/-! DEFINITION. Operand assembly and arithmetic, all of it (spec/00_scope.md R10 to R12, 30_encoding.md R92,
40_quantizer.md R111 to R113, 41_pitchbend.md R131 to R134, 43_packetizer.md R173, R174). Arithmetic is on
mathematical integers; nothing wraps. -/

namespace Sys2Proof.Machine

/-- Division that truncates toward zero (R11). -/
def tdiv (a b : Int) : Int := if 0 ≤ a then a / b else -((-a) / b)

/-- The index after `i`: `(i + 1) mod C` (42_event_queue.md R151). -/
def advance (c i : Nat) : Nat := (i + 1) % c

/-! ### The quantizer's operands -/

/-- `bin_center = lrv * 32 + 16` (10_state.md R24). -/
def binCenter (v : BitVec 7) : Int := (v.toNat : Int) * Config.binWidth + Config.halfBin

/-- The window's lower end, inside the window (R111). -/
def windowLo (v : BitVec 7) : Int := binCenter v - Config.hyst

/-- The window's upper end, inside the window (R111). -/
def windowHi (v : BitVec 7) : Int := binCenter v + Config.hyst

/-- `candidate = raw >> 5` (R113). -/
def candidate (raw : RawSample) : BitVec 7 := (raw >>> Config.binShift).setWidth 7

/-! ### The pitch-bend filter's operands -/

/-- `expanded = raw << 2` (R131). -/
def expanded (raw : RawSample) : Int := (raw.toNat <<< Config.pbExpandShift : Nat)

/-- `sm` after steps 2 and 3 (R132, R133): the noise gate, then a quarter of the difference. -/
def smooth (sm : Int) (raw : RawSample) : Int :=
  let delta := expanded raw - sm
  if Config.pbThreshold < |delta| then sm + tdiv delta Config.pbDampDiv else sm

/-- Line 2 of `scale` (R134): multiply first, then divide. -/
def rescale (t : Int) : Int := tdiv (t * Config.pbScaleNum) Config.pbScaleDen

/-- The clamp to the 14-bit domain (R134). -/
def clamp (t : Int) : Int :=
  let t := if t < 0 then 0 else t
  if Config.pbMax < t then Config.pbMax else t

/-- The deadband about the centre, ends included (R134). -/
def deadband (t : Int) : Int := if |t - Config.pbCenter| ≤ Config.pbDeadband then Config.pbCenter else t

/-- The fix-up function `scale` (R134). -/
def scale (s : Int) : Int := deadband (clamp (rescale (s - Config.pbCenter) + Config.pbCenter))

/-- `fixedup` in its 14-bit field (R92 (d)); R139 shows that it fits. -/
def fixedup (sm : Int) : BitVec 14 := BitVec.ofInt 14 (scale sm)

/-! ### Entries and packets -/

/-- The ENQ request of a report (R92 (c), (d)). -/
def reportEntry : Report → Entry
  | .control ch cand => { tag := ch, value := cand.setWidth 14 }
  | .pitchBend v => { tag := Config.tagPb, value := v }

/-- The packet for a dequeued entry (R173, R174), where `n` is the number of channels; no packet for a tag that names
nothing (R187). -/
def entryPacket (n : Nat) (e : Entry) : Option Packet :=
  if e.tag = Config.tagPb then
    some (.pitchBend ((e.value &&& 0x7F#14).setWidth 7) (((e.value >>> 7) &&& 0x7F#14).setWidth 7))
  else if e.tag.toNat < n then
    some (.control (BitVec.ofNat 7 (e.tag.toNat + Config.ccBase)) ((e.value &&& 0x7F#14).setWidth 7))
  else none

/-- The four bytes of a packet, lowest offset first (30_encoding.md R88 to R90, 20_memory.md R57). -/
def packetBytes : Packet → List Byte
  | .control c v => [Config.cinCc, Config.statusCc, c.setWidth 8, v.setWidth 8]
  | .pitchBend l m => [Config.cinPb, Config.statusPb, l.setWidth 8, m.setWidth 8]

/-! ### Status codes -/

/-- The 4-bit code of a status (60_exceptions.md R200). -/
def statusCode : Status → BitVec 4
  | .noEvent => 0#4
  | .enqueued => 1#4
  | .queueFull => 2#4
  | .sampleTimeout => 3#4
  | .invalidChannel => 4#4
  | .illegalOp => 5#4
  | .endpointBusy => 6#4
  | .noTransfer => 7#4
  | .submitted => 8#4
  | .modeOk => 9#4

/-- The mode bit (10_state.md R28). -/
def modeBit : Mode → BitVec 1
  | .disabled => 0#1
  | .enabled => 1#1

/-- `ls` as its 16-bit register (10_state.md R23): `UNSET` is 0xFFFF. -/
def lsWord : Option (BitVec 14) → BitVec 16
  | none => 0xFFFF#16
  | some v => v.setWidth 16

/-- `IDXW = max(1, ceil(log2 C))`, the width of an index register (10_state.md R20). -/
def indexWidth (c : Nat) : Nat := max 1 (Nat.clog 2 c)

end Sys2Proof.Machine
end

