-- ==== Sys2Proof/Machine/Flags.lean ====
section
/-! DEFINITION. The conditions of the block, computed when an operation needs them and never stored (spec/10_state.md
R27), and the two that tell whether a port has an operation in progress (R26). -/

namespace Sys2Proof.Machine

/-- `N`, the number of control channels (00_scope.md R7, 10_state.md R21). -/
abbrev State.channels (s : State) : Nat := s.lrv.length

/-- `empty = (rd == wr)` (R27). -/
abbrev QueueEmpty (s : State) : Prop := s.rd = s.wr

/-- `full = ((wr + 1) mod C == rd)` (R27). -/
abbrev QueueFull (s : State) : Prop := advance s.capacity s.wr = s.rd

/-- The number of queued entries, `(wr - rd) mod C` (10_state.md R31, 42_event_queue.md R159). -/
def queueCount (s : State) : Nat := (s.wr + s.capacity - s.rd) % s.capacity

/-- `change`: the raw sample lies outside the window of the last reported value (40_quantizer.md R112). -/
abbrev Change (v : BitVec 7) (raw : RawSample) : Prop :=
  (raw.toNat : Int) < windowLo v ∨ windowHi v < (raw.toNat : Int)

/-- `idle = not ep_busy` (R27). -/
abbrev EndpointIdle (s : State) : Prop := s.epBusy = false

/-- The buffer has room for one more packet: `txn + 4 <= 64` (43_packetizer.md R175). -/
abbrev Room (s : State) : Prop := s.txn + Config.packetBytes ≤ Config.maxPacket

/-- No operation is in progress on a port (10_state.md R26). -/
def portIdle (p : Port) (s : State) : Bool :=
  match p with
  | .P => s.producer == .idle
  | .T => s.consumer == .idle

/-- No operation is in progress on either port (44_mode_control.md R193). -/
def portsIdle (s : State) : Bool := portIdle .P s && portIdle .T s

end Sys2Proof.Machine
end

