-- ==== Sys2Proof/Machine/Ops.lean ====
section
/-! DEFINITION. The operations every meaning is made of: the two memories, the registers, the status report that
stands where other machines take an exception (spec/00_scope.md R14, 60_exceptions.md R208), and ENQ, DEQ, the
packet write and SUBMIT, each as one step and, for the queue, as its micro-steps. -/

namespace Sys2Proof.Machine

/-- What a step answers. -/
abbrev Result := Host.Outcome State Fault Refusal

/-- Go on from a next value; a stop stays a stop. -/
def andThen {α β : Type} (o : Host.Outcome α Fault Refusal) (f : α → Host.Outcome β Fault Refusal) :
    Host.Outcome β Fault Refusal :=
  match o with
  | .next a => f a
  | .fault r => .fault r
  | .refused r => .refused r

/-! ### Sparse memory: a list of (place, value) pairs, places strictly rising -/

/-- The value at a place. A place that is not listed holds no value (10_state.md R39, log 7). -/
def Memory.read {α : Type} : List (Nat × α) → Nat → Option α
  | [], _ => none
  | (k, v) :: rest, a => if k = a then some v else Memory.read rest a

/-- Write one place, keeping the places rising. -/
def Memory.write {α : Type} : List (Nat × α) → Nat → α → List (Nat × α)
  | [], a, v => [(a, v)]
  | (k, w) :: rest, a, v =>
    if a < k then (a, v) :: (k, w) :: rest
    else if a = k then (a, v) :: rest
    else (k, w) :: Memory.write rest a v

/-- The canonical form: places strictly rising. An unlisted place holds no value, so no entry equals what an unlisted
place reads as. -/
def Memory.wf {α : Type} : List (Nat × α) → Bool
  | [] => true
  | [_] => true
  | a :: b :: rest => decide (a.1 < b.1) && Memory.wf (b :: rest)

/-- The values at `n` places from `a` on, if every one holds a value. -/
def Memory.block {α : Type} (m : List (Nat × α)) : Nat → Nat → Option (List α)
  | _, 0 => some []
  | a, n + 1 =>
    match Memory.read m a, Memory.block m (a + 1) n with
    | some v, some vs => some (v :: vs)
    | _, _ => none

/-- Write a list of values at consecutive places. -/
def Memory.writes {α : Type} : List (Nat × α) → Nat → List α → List (Nat × α)
  | m, _, [] => m
  | m, a, v :: vs => Memory.writes (Memory.write m a v) (a + 1) vs

/-! ### Registers and memories of the block -/

/-- `lrv[i]` for `i < N` (10_state.md R21). -/
def lrvRead (s : State) (i : Nat) : BitVec 7 := s.lrv.getD i 0#7

/-- `lrv[i] <- v` (10_state.md R21). -/
def lrvWrite (i : Nat) (v : BitVec 7) (s : State) : State := { s with lrv := s.lrv.set i v }

/-- `SlotRead(i)`: the whole entry in slot `i`, if one was ever written (20_memory.md R53). -/
def slotRead (s : State) (i : Nat) : Option Entry := Memory.read s.slots i

/-- `SlotWrite(i, e)`: all of slot `i`, in one step (20_memory.md R53). -/
def slotWrite (i : Nat) (e : Entry) (s : State) : State := { s with slots := Memory.write s.slots i e }

/-- The byte at an offset of the transmit buffer, as the transport reads it (20_memory.md R70). -/
def txRead (s : State) (off : Nat) : Option Byte := Memory.read s.tx off

/-- `TxWrite(off, b)` (20_memory.md R56). -/
def txWrite (off : Nat) (b : Byte) (s : State) : State := { s with tx := Memory.write s.tx off b }

/-- `tx[0 .. n-1]`, if every byte was written (10_state.md R37). -/
def txBlock (s : State) (n : Nat) : Option (List Byte) := Memory.block s.tx 0 n

/-- `status <- CODE`: the status register of the port the operation came from (00_scope.md R14, 10_state.md R33). No
control is transferred (60_exceptions.md R208). -/
def setStatus (p : Port) (c : Status) (s : State) : State :=
  match p with
  | .P => { s with pstat := c }
  | .T => { s with tstat := c }

/-! ### ENQ (42_event_queue.md R152) -/

/-- The bus answers an ENQ (30_encoding.md R86). -/
def answerEnq (ok : Bool) (s : State) : State := { s with enqAnswer := some (answerWord ok 0#24) }

/-- EQ2 (R152). -/
def eq2 (e : Entry) (nxt : Nat) (s : State) : State := slotWrite nxt e s

/-- EQ3 (R152): publish the entry and answer `success`. -/
def eq3 (nxt : Nat) (s : State) : State := answerEnq true { s with wr := nxt }

/-- ENQ as one step (R152, 20_memory.md R65 (b)): the state after it, and whether it answered `success`. A full queue
drops the new entry and changes nothing (R153). -/
def enqueue (e : Entry) (s : State) : State × Bool :=
  let nxt := advance s.capacity s.wr
  if nxt = s.rd then (answerEnq false s, false)
  else (eq3 nxt (eq2 e nxt s), true)

/-! ### DEQ (42_event_queue.md R155) -/

/-- The bus answers a DEQ: an entry, or `empty` (30_encoding.md R86). -/
def answerDeq (e : Option Entry) (s : State) : State :=
  match e with
  | some e => { s with deqAnswer := some (answerWord true e.word) }
  | none => { s with deqAnswer := some (answerWord false 0#24) }

/-- DQ2 (R155): free the old slot `rd`. -/
def dq2 (s : State) : State := { s with rd := advance s.capacity s.rd }

/-- DQ3 (R155): the entry at the new position. -/
def dq3 (nxt : Nat) (s : State) : Host.Outcome (State × Entry) Fault Refusal :=
  match slotRead s nxt with
  | some e => .next (answerDeq (some e) s, e)
  | none => .fault .slotNotWritten

/-- DEQ as one step (R155, 20_memory.md R65 (b)): the state after it, and the entry, or none for `empty`. -/
def dequeue (s : State) : Host.Outcome (State × Option Entry) Fault Refusal :=
  if s.rd = s.wr then .next (answerDeq none s, none)
  else andThen (dq3 (advance s.capacity s.rd) (dq2 s)) (fun r => .next (r.1, some r.2))

/-! ### The packet write and SUBMIT (43_packetizer.md R172, R176 to R178) -/

/-- Write one packet at `txn` and add 4 to it (R172, 20_memory.md R55). -/
def appendPacket (p : Packet) (s : State) : State :=
  { s with tx := Memory.writes s.tx s.txn (packetBytes p), txn := s.txn + Config.packetBytes }

/-- A packet record on its own, PKT_CC or PKT_PB: the packet write of FN3. It has no meaning when the buffer has no
room (R175) or the transport owns it (20_memory.md R70). -/
def recordPacket (p : Packet) (s : State) : Result :=
  if s.epBusy = true then .refused .transmitBufferInFlight
  else if Room s then .next (appendPacket p s)
  else .refused .transmitBufferFull

/-- The packet for a dequeued entry; a tag that names nothing is refused (R187). -/
def packetFor (e : Entry) (s : State) : Host.Outcome Packet Fault Refusal :=
  match entryPacket s.channels e with
  | some p => .next p
  | none => .refused (.unknownTag e.tag)

/-- `SUBMIT(len = txn, short = (txn != 64))` (R176, R177, R180): append to `txlog` and make the endpoint busy. -/
def submit (s : State) : Result :=
  match txBlock s s.txn with
  | some bytes =>
    .next { s with
      txlog := s.txlog ++ [{ bytes := bytes, len := s.txn, short := decide (s.txn ≠ Config.maxPacket) }]
      epBusy := true }
  | none => .fault .byteNotWritten

/-- FN4 (R178): submit unless nothing was produced, and report. -/
def finishDrain (s : State) : Result :=
  if s.txn = 0 then .next (setStatus .T .noTransfer s)
  else andThen (submit s) (fun s' => .next (setStatus .T .submitted s'))

/-! ### The end of a SAMPLE operation -/

/-- What a filter does with ENQ's answer (40_quantizer.md R114 line 6, 41_pitchbend.md R136 line 6): the cached value
advances only on success. -/
def settle (r : Report) (ok : Bool) (s : State) : State :=
  match ok, r with
  | true, .control ch cand => setStatus .P .enqueued (lrvWrite ch.toNat cand s)
  | true, .pitchBend v => setStatus .P .enqueued { s with ls := some v }
  | false, _ => setStatus .P .queueFull s

/-- The rest of a SAMPLE operation after the filter's own lines: nothing, or one ENQ and its answer. -/
def finishSample (front : State × Option Report) : State :=
  match front with
  | (s, none) => s
  | (s, some r) =>
    let answer := enqueue (reportEntry r) s
    settle r answer.2 answer.1

end Sys2Proof.Machine
end

