-- ==== Sys2Proof/Machine/Environment.lean ====
section
/-! DEFINITION. The environment's own steps (spec/43_packetizer.md R181, R182, 70_reset_and_hazards.md R230, R243,
R250). Each is enabled only where its rule says so; elsewhere it is stuck, under a name of its own (log 15). -/

namespace Sys2Proof.Machine

/-- TRANSFER_DONE (R181). -/
def transferDone (s : State) : Result :=
  if s.epBusy = true then .next { s with epBusy := false } else .fault .stuckTransferDone

/-- RESET (R230): every piece of state to its reset value; the parameters stay, and so does the schedule, which is no
state of the block (log 21). -/
def resetStep (s : State) : Result :=
  if portsIdle s = true then .next { State.resetWith s.channels s.capacity with events := s.events }
  else .fault .stuckReset

/-- Idle entry (R243, 60_exceptions.md R220): all state survives. -/
def enterIdle (s : State) : Result :=
  if portsIdle s = true then .next s else .fault .stuckIdle

/-- The transport reads a byte in flight: no effect (20_memory.md R59, R70). -/
def transportRead (off : Nat) (s : State) : Result :=
  if s.epBusy = true ∧ off < s.txn then .next s else .fault .stuckTransportRead

end Sys2Proof.Machine
end

