-- ==== Sys2Proof/Machine/EventQueue.lean ====
section
/-! DEFINITION. The two requests on bus `Q` (spec/42_event_queue.md R150 to R162), each as one step. -/

namespace Sys2Proof.Machine

/-- ENQ (R152); its answer is in `enqAnswer`. -/
def execEnq (tag : BitVec 8) (value : BitVec 14) (s : State) : Result :=
  .next (enqueue { tag := tag, value := value } s).1

/-- DEQ (R155); its answer is in `deqAnswer`. -/
def execDeq (s : State) : Result :=
  andThen (dequeue s) (fun r => .next r.1)

end Sys2Proof.Machine
end

