-- ==== Sys2Proof/Machine/ModeControl.lean ====
section
/-! DEFINITION. The output-enable mode: ENABLE and DISABLE (spec/44_mode_control.md R190 to R198). That they begin only
when both ports are idle (R193) is checked where a command word is delivered, Machine/Deliver.lean. -/

namespace Sys2Proof.Machine

/-- ENABLE (R191). -/
def execEnable (s : State) : Result := .next (setStatus .T .modeOk { s with mode := .enabled })

/-- DISABLE (R192): every queued entry is discarded, no slot is touched. -/
def execDisable (s : State) : Result := .next (setStatus .T .modeOk { s with mode := .disabled, rd := s.wr })

end Sys2Proof.Machine
end

