-- ==== Sys2Proof/Machine/Packetizer.lean ====
section
/-! DEFINITION. The Packetizer, FRAME_NOTIFY, and the two packet records (spec/43_packetizer.md R170 to R188,
30_encoding.md R88 to R91). -/

namespace Sys2Proof.Machine

/-- FN3, the drain loop (R178): the room test before each DEQ, one packet for each entry, at most `k` of them. With
`k = 16` and `txn = 0` at the start the room test has ended the loop by the time `k` runs out (R179). -/
def drain : Nat → State → Result
  | 0, s => .next s
  | k + 1, s =>
    if Room s then
      andThen (dequeue s) (fun r =>
        match r.2 with
        | none => .next r.1
        | some e => andThen (packetFor e r.1) (fun p => drain k (appendPacket p r.1)))
    else .next s

/-- FRAME_NOTIFY with no other agent's micro-step inside it (R178, 20_memory.md R66 (a)). -/
def execFrameNotify (s : State) : Result :=
  if s.epBusy = true then .next (setStatus .T .endpointBusy s)
  else andThen (drain Config.maxEventsPerDrain { s with txn := 0 }) finishDrain

/-- PKT_CC (30_encoding.md R89). -/
def execPktCc (controller value : BitVec 7) (s : State) : Result := recordPacket (.control controller value) s

/-- PKT_PB (30_encoding.md R90). -/
def execPktPb (lsb msb : BitVec 7) (s : State) : Result := recordPacket (.pitchBend lsb msb) s

end Sys2Proof.Machine
end

