-- ==== Sys2Proof/Machine/PitchBend.lean ====
section
/-! DEFINITION. PitchBendFilter and SAMPLE_PB (spec/41_pitchbend.md R130 to R144). -/

namespace Sys2Proof.Machine

/-- Lines 1 to 7 of SAMPLE_PB but for the ENQ (R136): `sm` advances whatever follows; ENQ is asked for when the mode
is Enabled and the fixed-up value is not the last one sent. -/
def pitchBendFront (res : SamplerResult) (raw : RawSample) (s : State) : State × Option Report :=
  if res = .invalidChannel then (setStatus .P .invalidChannel s, none)
  else if res = .unavailable then (setStatus .P .sampleTimeout s, none)
  else
    let s1 := { s with sm := smooth s.sm raw }
    if s1.mode = .enabled ∧ some (fixedup s1.sm) ≠ s1.ls then (s1, some (.pitchBend (fixedup s1.sm)))
    else (setStatus .P .noEvent s1, none)

/-- SAMPLE_PB as one step (R136, 20_memory.md R65 (b)). -/
def execSamplePb (res : SamplerResult) (raw : RawSample) (s : State) : Result :=
  .next (finishSample (pitchBendFront res raw s))

end Sys2Proof.Machine
end

