-- ==== Sys2Proof/Machine/Quantizer.lean ====
section
/-! DEFINITION. QuantizerFilter and SAMPLE_CC (spec/40_quantizer.md R110 to R122). -/

namespace Sys2Proof.Machine

/-- Lines 1 to 5 of SAMPLE_CC (R114): the operation has ended with its status written, or one ENQ is asked for. -/
def quantizerFront (res : SamplerResult) (ch : BitVec 8) (raw : RawSample) (s : State) : State × Option Report :=
  if s.channels ≤ ch.toNat ∨ res = .invalidChannel then (setStatus .P .invalidChannel s, none)
  else if res = .unavailable then (setStatus .P .sampleTimeout s, none)
  else if ¬ Change (lrvRead s ch.toNat) raw then (setStatus .P .noEvent s, none)
  else
    match s.mode with
    | .disabled => (setStatus .P .noEvent (lrvWrite ch.toNat (candidate raw) s), none)
    | .enabled => (s, some (.control ch (candidate raw)))

/-- SAMPLE_CC as one step (R114, 20_memory.md R65 (b)). -/
def execSampleCc (res : SamplerResult) (ch : BitVec 8) (raw : RawSample) (s : State) : Result :=
  .next (finishSample (quantizerFront res ch raw s))

end Sys2Proof.Machine
end

