-- ==== Sys2Proof/Machine/Dispatch.lean ====
section
/-! DEFINITION. One arm per instruction: its meaning, begun at an operation boundary and run with no other agent's
micro-step inside it. -/

namespace Sys2Proof.Machine

def exec (i : Instr) (s : State) : Host.Outcome State Fault Refusal :=
  match i with
  | .sampleCc res ch raw => Sys2Proof.Machine.execSampleCc res ch raw s
  | .samplePb res raw => Sys2Proof.Machine.execSamplePb res raw s
  | .frameNotify => Sys2Proof.Machine.execFrameNotify s
  | .enable => Sys2Proof.Machine.execEnable s
  | .disable => Sys2Proof.Machine.execDisable s
  | .enq tag value => Sys2Proof.Machine.execEnq tag value s
  | .deq => Sys2Proof.Machine.execDeq s
  | .pktCc controller value => Sys2Proof.Machine.execPktCc controller value s
  | .pktPb lsb msb => Sys2Proof.Machine.execPktPb lsb msb s

end Sys2Proof.Machine
end

