-- ==== Sys2Proof/Machine/MicroSteps.lean ====
section
/-! DEFINITION. The micro-steps of the operations in progress (spec/20_memory.md R60, 42_event_queue.md R152 and R155,
43_packetizer.md R178), each atomic. A micro-step changes the phase of its own port only, so the two ports'
micro-steps may be taken in any order. Granularity: log 5. -/

namespace Sys2Proof.Machine

/-- The filter's own lines of an accepted SAMPLE operation. -/
def sampleFront (op : SampleOp) (s : State) : State × Option Report :=
  match op with
  | .control res ch raw => quantizerFront res ch raw s
  | .pitchBend res raw => pitchBendFront res raw s

/-- The producer's phase after the filter's own lines: ended, or at EQ1. -/
def afterFront (front : State × Option Report) : State :=
  match front with
  | (s, none) => { s with producer := .idle }
  | (s, some r) => { s with producer := .eq1 r }

/-- EQ1 (42 R152): reads `wr` and, once, `rd`; a full queue is answered here. -/
def eq1Step (r : Report) (s : State) : State :=
  let nxt := advance s.capacity s.wr
  if nxt = s.rd then { answerEnq false s with producer := .answered r false }
  else { s with producer := .eq2 r nxt }

/-- The next micro-step on port `P`. With no operation in progress there is none, and nothing happens (log 16). -/
def producerStep (s : State) : Result :=
  match s.producer with
  | .idle => .next s
  | .sampled op => .next (afterFront (sampleFront op s))
  | .eq1 r => .next (eq1Step r s)
  | .eq2 r nxt => .next { eq2 (reportEntry r) nxt s with producer := .eq3 r nxt }
  | .eq3 r nxt => .next { eq3 nxt s with producer := .answered r true }
  | .answered r ok => .next { settle r ok s with producer := .idle }

/-- DQ1 (42 R155): reads `wr` once; an empty queue is answered here and ends the loop of FN3. -/
def dq1Step (s : State) : State :=
  if s.rd = s.wr then { answerDeq none s with consumer := .fn4 } else { s with consumer := .dq2 }

/-- The next micro-step on port `T`. With no operation in progress there is none, and nothing happens (log 16). -/
def consumerStep (s : State) : Result :=
  match s.consumer with
  | .idle => .next s
  | .fn1 =>
    if s.epBusy = true then .next { setStatus .T .endpointBusy s with consumer := .idle }
    else .next { s with consumer := .fn2 }
  | .fn2 => .next { s with txn := 0, consumer := .fn3 }
  | .fn3 => if Room s then .next { s with consumer := .dq1 } else .next { s with consumer := .fn4 }
  | .dq1 => .next (dq1Step s)
  | .dq2 => .next { dq2 s with consumer := .dq3 (advance s.capacity s.rd) }
  | .dq3 nxt => andThen (dq3 nxt s) (fun r => .next { r.1 with consumer := .write r.2 })
  | .write e => andThen (packetFor e s) (fun p => .next { appendPacket p s with consumer := .fn3 })
  | .fn4 => andThen (finishDrain s) (fun s' => .next { s' with consumer := .idle })

/-- The next micro-step on a port. -/
def microStep (p : Port) (s : State) : Result :=
  match p with
  | .P => producerStep s
  | .T => consumerStep s

/-- Begin an operation that has micro-steps; ENABLE and DISABLE are one atomic step each (44_mode_control.md R193), and
so is every operation that has no phases of its own. -/
def beginOperation (i : Instr) (s : State) : Result :=
  match i with
  | .sampleCc res ch raw => .next { s with producer := .sampled (.control res ch raw) }
  | .samplePb res raw => .next { s with producer := .sampled (.pitchBend res raw) }
  | .frameNotify => .next { s with consumer := .fn1 }
  | .enable => exec .enable s
  | .disable => exec .disable s
  | .enq tag value => exec (.enq tag value) s
  | .deq => exec .deq s
  | .pktCc c v => exec (.pktCc c v) s
  | .pktPb l m => exec (.pktPb l m) s

end Sys2Proof.Machine
end

