-- ==== Sys2Proof/Machine/Deliver.lean ====
section
/-! DEFINITION. What one event of the schedule does: the checks at an operation's boundary (spec/70_reset_and_hazards.md
R240, 44_mode_control.md R193), the decoding of a word at its port (30_encoding.md R84, R93), and then the
operation. -/

namespace Sys2Proof.Machine

/-- The port whose agent performs an operation (30_encoding.md R82, R85). -/
def operationPort : Instr → Port
  | .sampleCc _ _ _ => .P
  | .samplePb _ _ => .P
  | .frameNotify => .T
  | .enable => .T
  | .disable => .T
  | .enq _ _ => .P
  | .deq => .T
  | .pktCc _ _ => .T
  | .pktPb _ _ => .T

/-- ENABLE and DISABLE wait for both ports (44_mode_control.md R193). -/
def changesMode : Instr → Bool
  | .sampleCc _ _ _ => false
  | .samplePb _ _ => false
  | .frameNotify => false
  | .enable => true
  | .disable => true
  | .enq _ _ => false
  | .deq => false
  | .pktCc _ _ => false
  | .pktPb _ _ => false

/-- An operation may begin: its port has none in progress (93 U9), and a mode change finds both ports idle (93 U13). -/
def atBoundary (i : Instr) (run : State → Result) (s : State) : Result :=
  if portIdle (operationPort i) s = false then .refused (.portOccupied (operationPort i))
  else if changesMode i = true ∧ portsIdle s = false then .fault .stuckModeChange
  else run s

/-- A command word at a port: an illegal one is reported in the port's status register and changes nothing else
(30_encoding.md R93, 60_exceptions.md R207). A port takes one operation at a time, so an occupied port takes no word
at all (70 R240). -/
def deliverCommand (p : Port) (w : CmdWord) (run : Instr → State → Result) (s : State) : Result :=
  if portIdle p s = false then .refused (.portOccupied p)
  else
    match decodeCmd p w with
    | .error _ => .next (setStatus p .illegalOp s)
    | .ok i => atBoundary i (run i) s

/-- A bare word on bus `Q` (30_encoding.md R85): no request is no event; a word the block never generates is
refused. -/
def deliverRequest (q : QReqWord) (s : State) : Result :=
  match decodeQreq q with
  | .error .noRequest => .next s
  | .error _ => .refused .neverGenerated
  | .ok i => atBoundary i (exec i) s

/-- A bare packet record (30_encoding.md R94). -/
def deliverRecord (w : PktWord) (s : State) : Result :=
  match decodePkt w with
  | .error _ => .refused .notAPacket
  | .ok i => atBoundary i (exec i) s

/-- One event. -/
def deliver (e : Event) (s : State) : Result :=
  match e with
  | .command p w => deliverCommand p w exec s
  | .present p w => deliverCommand p w beginOperation s
  | .micro p => microStep p s
  | .transferDone => transferDone s
  | .reset => resetStep s
  | .enterIdle => enterIdle s
  | .transportRead off => transportRead off s
  | .request q => deliverRequest q s
  | .record w => deliverRecord w s

/-- The event by which a 32-bit number reaches the machine: at its port, on the bus, or at the transmit buffer. -/
def wordEvent (w : BitVec 32) : Event :=
  match wordFormat w with
  | .cmd p => .command p w
  | .qreq => .request (w.extractLsb' 0 26)
  | .pkt => .record w

end Sys2Proof.Machine
end

