-- ==== Sys2Proof/Machine/Step.lean ====
section
/-! DEFINITION. One step: the next move of the schedule. With nothing scheduled the block waits for operations
(spec/70_reset_and_hazards.md R230, R249; log 2). -/

namespace Sys2Proof.Machine

/-- One step of the block and its environment. -/
def step (s : State) : Host.Outcome State Fault Refusal :=
  match s.events with
  | [] => .next s
  | e :: rest => deliver e { s with events := rest }

/-- The state whose very next step runs the instruction of a table word: the word's event stands first in the
schedule, and no operation is in progress on either port. -/
def State.withFetchWord (s : State) (nbits w : Nat) : State :=
  { s with
    events := wordEvent (BitVec.ofNat 32 (w % 2 ^ nbits)) :: s.events
    producer := .idle
    consumer := .idle }

end Sys2Proof.Machine
end

