-- ==== Sys2Proof/Safety.lean ====
section
/-! DEFINITION. What a safe state of the block is, in the terms the statements use: the stored-value invariants
(spec/10_state.md R31, R40), the one transfer in flight (20_memory.md R70, 43_packetizer.md R184), the facts each phase
of an operation rests on (20_memory.md R65), and the stream of bytes the host receives (R71). -/

namespace Sys2Proof.Machine

/-! ### What the outside can do -/

/-- The moves the outside can make or schedule (70_reset_and_hazards.md R250). No port lets it put a word on bus `Q`
or a packet in the buffer (30_encoding.md R85). -/
def Event.external : Event → Bool
  | .command _ _ => true
  | .present _ _ => true
  | .micro _ => true
  | .transferDone => true
  | .reset => true
  | .enterIdle => true
  | .transportRead _ => true
  | .request _ => false
  | .record _ => false

/-! ### The queue and the stream -/

/-- Slot `i` was written, with an entry of 20_memory.md R52. -/
abbrev SlotLegal (s : State) (i : Nat) : Prop := (slotRead s i).any (Entry.legal s.channels) = true

/-- The queued entries, oldest first (10_state.md R31). -/
def queued (s : State) : List Entry :=
  (List.range (queueCount s)).filterMap (fun k => slotRead s ((s.rd + 1 + k) % s.capacity))

/-- The packet bytes of an entry (30_encoding.md R89, R90); none for a tag that names nothing. -/
def entryBytes (n : Nat) (e : Entry) : List Byte :=
  match entryPacket n e with
  | some p => packetBytes p
  | none => []

/-- The bytes of every transfer submitted, in order: what the host receives (10_state.md R37). -/
def sentBytes (s : State) : List Byte := s.txlog.flatMap Transfer.bytes

/-- The bytes a drain in progress has placed in the buffer and not submitted. -/
def drainBytes (s : State) : List Byte :=
  match s.consumer with
  | .idle | .fn1 | .fn2 => []
  | .fn3 | .dq1 | .dq2 | .dq3 _ | .write _ | .fn4 => (txBlock s s.txn).getD []

/-- The bytes of the entry a drain has taken from the queue and not written. -/
def handBytes (s : State) : List Byte :=
  match s.consumer with
  | .dq3 nxt => ((slotRead s nxt).map (entryBytes s.channels)).getD []
  | .write e => entryBytes s.channels e
  | .idle | .fn1 | .fn2 | .fn3 | .dq1 | .dq2 | .fn4 => []

/-- Everything enqueued and not discarded, as packets in order: sent, then being drained, then queued
(20_memory.md R71). -/
def stream (s : State) : List Byte :=
  sentBytes s ++ drainBytes s ++ handBytes s ++ (queued s).flatMap (entryBytes s.channels)

/-- The packet bytes of the entry a step published, if it moved the write index (20_memory.md R62). -/
def published (s s' : State) : List Byte :=
  if s'.wr = s.wr then [] else ((slotRead s' s'.wr).map (entryBytes s'.channels)).getD []

/-! ### The invariant -/

/-- The parameters lie in their ranges (00_scope.md R7). -/
abbrev ParamsOk (s : State) : Prop :=
  1 ≤ s.channels ∧ s.channels ≤ Config.maxChannels ∧ Config.minCapacity ≤ s.capacity ∧
    s.capacity ≤ Config.maxCapacity

/-- "indices always in [0, C)" (42_event_queue.md R151, 10_state.md R31). -/
abbrev IndicesOk (s : State) : Prop := s.rd < s.capacity ∧ s.wr < s.capacity

/-- Both memories are in canonical form and inside their ranges (20_memory.md R51, R55). -/
abbrev MemoriesOk (s : State) : Prop :=
  Memory.wf s.slots = true ∧ (∀ c ∈ s.slots, c.1 < s.capacity) ∧
    Memory.wf s.tx = true ∧ ∀ c ∈ s.tx, c.1 < Config.maxPacket

/-- `txn` is a multiple of 4 in `0..64` (10_state.md R32, R40). -/
abbrev TxnOk (s : State) : Prop := s.txn % Config.packetBytes = 0 ∧ s.txn ≤ Config.maxPacket

/-- `sm` is in `0..16380` (10_state.md R40, 41_pitchbend.md R139). -/
abbrev SmOk (s : State) : Prop := 0 ≤ s.sm ∧ s.sm ≤ 16380

/-- Every queued entry was written and is legal (10_state.md R31, R40, 42_event_queue.md R161). -/
abbrev QueueOk (s : State) : Prop :=
  ∀ k, k < queueCount s → SlotLegal s ((s.rd + 1 + k) % s.capacity)

/-- While the mode is Disabled the queue is empty (44_mode_control.md R197). -/
abbrev DisabledEmpty (s : State) : Prop := s.mode = .disabled → s.rd = s.wr

/-- What the producer's phase rests on: an ENQ begins only while Enabled with a legal entry, and the slot it writes
is neither published nor the one the consumer reads (20_memory.md R65 (c)). -/
def ProducerOk (s : State) : Prop :=
  match s.producer with
  | .idle => True
  | .sampled _ => True
  | .eq1 r => s.mode = .enabled ∧ Entry.legal s.channels (reportEntry r) = true
  | .eq2 r nxt =>
    s.mode = .enabled ∧ Entry.legal s.channels (reportEntry r) = true ∧ nxt = advance s.capacity s.wr ∧ nxt ≠ s.rd
  | .eq3 r nxt =>
    s.mode = .enabled ∧ Entry.legal s.channels (reportEntry r) = true ∧ nxt = advance s.capacity s.wr ∧
      nxt ≠ s.rd ∧ slotRead s nxt = some (reportEntry r)
  | .answered r _ => s.mode = .enabled ∧ Entry.legal s.channels (reportEntry r) = true

/-- A drain in progress: the endpoint is idle, and the bytes counted by `txn` were written. -/
abbrev Draining (s : State) : Prop := s.epBusy = false ∧ (txBlock s s.txn).isSome = true

/-- What the consumer's phase rests on: no transfer is in flight while a drain runs (43_packetizer.md R184), an entry is
taken only when its packet fits (R172), and the slot DQ3 reads is the slot at `rd` (42_event_queue.md R155). -/
def ConsumerOk (s : State) : Prop :=
  match s.consumer with
  | .idle => True
  | .fn1 => True
  | .fn2 => s.epBusy = false
  | .fn3 => Draining s
  | .dq1 => Draining s ∧ Room s
  | .dq2 => Draining s ∧ Room s ∧ s.rd ≠ s.wr
  | .dq3 nxt => Draining s ∧ Room s ∧ nxt = s.rd ∧ SlotLegal s nxt
  | .write e => Draining s ∧ Room s ∧ Entry.legal s.channels e = true
  | .fn4 => Draining s

/-- A transfer as the block submits it (30_encoding.md R91). -/
abbrev TransferOk (t : Transfer) : Prop :=
  t.bytes.length = t.len ∧ t.len % Config.packetBytes = 0 ∧ 0 < t.len ∧ t.len ≤ Config.maxPacket ∧
    t.short = decide (t.len ≠ Config.maxPacket)

/-- While a transfer is in flight, it is the last of `txlog` and the buffer still holds its bytes
(20_memory.md R70). -/
abbrev InFlightOk (s : State) : Prop :=
  s.epBusy = true → (s.txlog.getLast?).any (fun t => t.len == s.txn && txBlock s s.txn == some t.bytes) = true

/-- The invariant every step keeps while the schedule holds only what the outside can do. -/
structure Inv (s : State) : Prop where
  params : ParamsOk s
  indices : IndicesOk s
  memories : MemoriesOk s
  txn : TxnOk s
  sm : SmOk s
  queue : QueueOk s
  disabled : DisabledEmpty s
  producer : ProducerOk s
  consumer : ConsumerOk s
  transfers : ∀ t ∈ s.txlog, TransferOk t
  inFlight : InFlightOk s
  schedule : s.events.all Event.external = true

/-! ### Runs -/

/-- The end of a finite run (70_reset_and_hazards.md R249): every scheduled operation has completed and, for a claim
about delivery, no transfer is in flight. -/
def runOver (delivery : Bool) (s : State) : Bool :=
  s.events.isEmpty && portsIdle s && (!delivery || !s.epBusy)

/-- `k` steps. -/
def runSteps : Nat → State → Result
  | 0, s => .next s
  | k + 1, s => andThen (step s) (runSteps k)

/-- `k` micro-steps of one port with no other agent between them. -/
def runPort (p : Port) : Nat → State → Result
  | 0, s => .next s
  | k + 1, s => andThen (microStep p s) (runPort p k)

/-- Micro-steps of the two ports in a given order (20_memory.md R60). -/
def runMicro : List Port → State → Result
  | [], s => .next s
  | p :: rest, s => andThen (microStep p s) (runMicro rest)

end Sys2Proof.Machine
end

