-- ==== Sys2Proof/Certificates/Slice0/Obligations.lean ====
section
/-! DEFINITION. The statements about the block. The first part writes the spec's formulas out in plain numbers, apart
from the model's own operations, so that a statement compares the two; the second part states. -/

namespace Sys2Proof.Claims

open Sys2Proof Sys2Proof.Machine

/-! ### The spec's formulas in numbers -/

/-- `c[31:28]` as a number (30_encoding.md R81). -/
abbrev opOf (w : CmdWord) : Nat := w.toNat / 2 ^ 28
/-- `c[27:26]`. -/
abbrev resOf (w : CmdWord) : Nat := w.toNat / 2 ^ 26 % 4
/-- `c[25:24]`. -/
abbrev zeroAOf (w : CmdWord) : Nat := w.toNat / 2 ^ 24 % 4
/-- `c[23:16]`. -/
abbrev chOf (w : CmdWord) : Nat := w.toNat / 2 ^ 16 % 256
/-- `c[15:12]`. -/
abbrev zeroBOf (w : CmdWord) : Nat := w.toNat / 2 ^ 12 % 16
/-- `c[11:0]`. -/
abbrev rawOf (w : CmdWord) : Nat := w.toNat % 4096

/-- A word is an illegal command word at port `p`: the list of spec/30_encoding.md R93. -/
abbrev illegalWord (p : Port) (w : CmdWord) : Prop :=
  (opOf w ≠ 1 ∧ opOf w ≠ 2 ∧ opOf w ≠ 8 ∧ opOf w ≠ 12 ∧ opOf w ≠ 13) ∨
  (p = .P ∧ (opOf w = 8 ∨ opOf w = 12 ∨ opOf w = 13)) ∨ (p = .T ∧ (opOf w = 1 ∨ opOf w = 2)) ∨
  zeroAOf w ≠ 0 ∨ zeroBOf w ≠ 0 ∨ resOf w = 3 ∨
  ((opOf w = 2 ∨ opOf w = 8 ∨ opOf w = 12 ∨ opOf w = 13) ∧ chOf w ≠ 0) ∨
  ((opOf w = 8 ∨ opOf w = 12 ∨ opOf w = 13) ∧ (resOf w ≠ 0 ∨ rawOf w ≠ 0))

/-- A raw sample inside the window of a last reported value, both ends included (40_quantizer.md R111, R112). -/
abbrev InWindow (v : BitVec 7) (raw : RawSample) : Prop :=
  32 * (v.toNat : Int) - 8 ≤ (raw.toNat : Int) ∧ (raw.toNat : Int) ≤ 32 * (v.toNat : Int) + 40

/-- The bin a raw sample is in (40_quantizer.md R113). -/
def binOf (raw : RawSample) : BitVec 7 := BitVec.ofNat 7 (raw.toNat / 32)

/-- `delta` of a pitch-bend sample (41_pitchbend.md R131, R132). -/
def deltaOf (sm : Int) (raw : RawSample) : Int := 4 * (raw.toNat : Int) - sm

/-- `sm` after the noise gate and the smoother (41_pitchbend.md R132, R133). -/
def smoothed (sm : Int) (raw : RawSample) : Int :=
  if -31 ≤ deltaOf sm raw ∧ deltaOf sm raw ≤ 31 then sm else sm + Int.tdiv (deltaOf sm raw) 4

/-- The fixed-up value (41_pitchbend.md R134). -/
def fixUp (s : Int) : Int :=
  let t := max 0 (min 16383 (Int.tdiv ((s - 8192) * 1008) 1000 + 8192))
  if 8092 ≤ t ∧ t ≤ 8292 then 8192 else t

/-- The fixed-up value of a sample in its 14-bit field. -/
def bendOf (sm : Int) (raw : RawSample) : BitVec 14 := BitVec.ofInt 14 (fixUp (smoothed sm raw))

/-- The entry a control channel's report is queued as (30_encoding.md R92 (c)). -/
def controlEntry (ch : BitVec 8) (raw : RawSample) : Entry := { tag := ch, value := (binOf raw).setWidth 14 }

/-- The entry a pitch-bend report is queued as (30_encoding.md R92 (d)). -/
def bendEntry (v : BitVec 14) : Entry := { tag := 0xFF#8, value := v }

/-- The number of an entry's word `{tag, 0b00, value}` (20_memory.md R52). -/
def entryNum (e : Entry) : Nat := e.tag.toNat * 2 ^ 16 + e.value.toNat

/-- An answer of bus `Q`: `ok` in bit 24, the entry in the 24 bits below it (30_encoding.md R86). -/
def answerOf (ok : Bool) (entry : Nat) : AnswerWord := BitVec.ofNat 25 (ok.toNat * 2 ^ 24 + entry)

/-- The status with which the producer's next micro-step ends its operation; none where it does not end there: lines 1,
2, 3 and 5 of SAMPLE_CC and their like in SAMPLE_PB end it before any ENQ, and ENQ's answer ends it after one
(40_quantizer.md R114, 41_pitchbend.md R136). -/
def producerEnd (s : State) : Option Status :=
  match s.producer with
  | .sampled (.control res ch raw) =>
    if s.channels ≤ ch.toNat ∨ res = .invalidChannel then some .invalidChannel
    else if res = .unavailable then some .sampleTimeout
    else if s.mode = .enabled ∧ ¬ InWindow (lrvRead s ch.toNat) raw then none
    else some .noEvent
  | .sampled (.pitchBend res raw) =>
    if res = .invalidChannel then some .invalidChannel
    else if res = .unavailable then some .sampleTimeout
    else if s.mode = .enabled ∧ s.ls ≠ some (bendOf s.sm raw) then none
    else some .noEvent
  | .answered _ ok => some (if ok then .enqueued else .queueFull)
  | .idle | .eq1 _ | .eq2 _ _ | .eq3 _ _ => none

/-- The status with which the consumer's next micro-step ends its operation; none where it does not end there: FN1 when
the endpoint is busy, and FN4 (43_packetizer.md R178). -/
def consumerEnd (s : State) : Option Status :=
  match s.consumer with
  | .fn1 => if s.epBusy = true then some .endpointBusy else none
  | .fn4 => some (if s.txn = 0 then .noTransfer else .submitted)
  | .idle | .fn2 | .fn3 | .dq1 | .dq2 | .dq3 _ | .write _ => none

/-- Apply a change to the next state of an outcome. -/
def mapNext (f : State → State) : Result → Result
  | .next s => .next (f s)
  | .fault r => .fault r
  | .refused r => .refused r

/-- A list of ENQs run one after another, and the answer word (30_encoding.md R86) of each; `none` if one stops. -/
def enqueueAll : List Entry → State → Option (State × List (Option AnswerWord))
  | [], s => some (s, [])
  | e :: es, s =>
    match exec (.enq e.tag e.value) s with
    | .next t => (enqueueAll es t).map (fun r => (r.1, t.enqAnswer :: r.2))
    | _ => none

/-- The same pitch-bend sample `k` times. -/
def bendTimes (raw : RawSample) : Nat → State → Result
  | 0, s => .next s
  | k + 1, s => andThen (exec (.samplePb .sample raw) s) (bendTimes raw k)

/-- A whole ENQ of a producer that stands at EQ1. -/
def wholeEnq (r : Report) (s : State) : State :=
  { (enqueue (reportEntry r) s).1 with producer := .answered r (enqueue (reportEntry r) s).2 }

/-- A whole DEQ of a consumer that stands at DQ1. -/
def wholeDeq (s : State) : Result :=
  andThen (dequeue s) (fun r =>
    match r.2 with
    | none => .next { r.1 with consumer := .fn4 }
    | some e => .next { r.1 with consumer := .write e })

/-- The state with everything of the consumer's side that the producer may not see replaced (60_exceptions.md
R212). -/
def withConsumerSide (u s : State) : State :=
  { s with tx := u.tx, txn := u.txn, tstat := u.tstat, epBusy := u.epBusy, txlog := u.txlog, consumer := u.consumer,
           deqAnswer := u.deqAnswer, events := u.events }

end Sys2Proof.Claims

open Sys2Proof Sys2Proof.Machine Sys2Proof.Claims

/-! ### Encodings and the step -/

/-- spec/30_encoding.md R81 to R85, R89, R90: no operand bit of any format is lost by encoding and decoding. The byte
numbering of a record and the choice of a bare number's format are the model's (log 13, 14). -/
def Obligations.DecodingAnEncodingGivesTheInstruction : Prop :=
  (∀ (res : SamplerResult) (ch : BitVec 8) (raw : RawSample),
      decode (encode (.sampleCc res ch raw)) = .ok (.sampleCc res ch raw)) ∧
  (∀ (res : SamplerResult) (raw : RawSample), decode (encode (.samplePb res raw)) = .ok (.samplePb res raw)) ∧
  decode (encode .frameNotify) = .ok .frameNotify ∧
  decode (encode .enable) = .ok .enable ∧
  decode (encode .disable) = .ok .disable ∧
  (∀ (tag : BitVec 8) (value : BitVec 14), decode (encode (.enq tag value)) = .ok (.enq tag value)) ∧
  decode (encode .deq) = .ok .deq ∧
  (∀ c v : BitVec 7, decode (encode (.pktCc c v)) = .ok (.pktCc c v)) ∧
  (∀ l m : BitVec 7, decode (encode (.pktPb l m)) = .ok (.pktPb l m))

/-- spec/30_encoding.md R81, R84, R85, R89, R90: each word of each format has one meaning, and a command word's is an
operation of the port it arrived on. The numbering of bus words and records is the model's (log 13). -/
def Obligations.EveryDecodedWordIsItsInstructionsEncoding : Prop :=
  (∀ (p : Port) (w : CmdWord) (i : Instr), decodeCmd p w = .ok i → encode i = w ∧ operationPort i = p) ∧
  (∀ (q : QReqWord) (i : Instr), decodeQreq q = .ok i → encode i = q.setWidth 32) ∧
  (∀ (w : PktWord) (i : Instr), decodePkt w = .ok i → encode i = w)

/-- spec/30_encoding.md R93, 60_exceptions.md R207: which command words are illegal, what one does, and that a
channel operand no instance has is not illegal. The schedule is the model's (log 2), and an occupied port takes no
word (log 25). -/
def Obligations.IllegalCommandWordsSetOnlyTheStatus : Prop :=
  (∀ (p : Port) (w : CmdWord), (∃ r, decodeCmd p w = .error r) ↔ illegalWord p w) ∧
  (∀ (s : State) (p : Port) (w : CmdWord) (rest : List Event),
      s.events = .command p w :: rest ∨ s.events = .present p w :: rest →
      portIdle p s = true → illegalWord p w →
      step s = .next (match p with
        | .P => { s with pstat := .illegalOp, events := rest }
        | .T => { s with tstat := .illegalOp, events := rest })) ∧
  (∀ (s : State) (res : SamplerResult) (ch : BitVec 8) (raw : RawSample), s.channels ≤ ch.toNat →
      ¬ illegalWord .P (encode (.sampleCc res ch raw)) ∧
      exec (.sampleCc res ch raw) s = .next { s with pstat := .invalidChannel })

/-- A few words written out from 30_encoding.md R82, R85, R89, R90 and 95_test_vectors.md decode to what they stand
for. Packet bytes are numbered as the table numbers them (log 13). -/
def Obligations.WrittenWordsDecode : Prop :=
  decodeCmd .T 0x80000000#32 = .ok .frameNotify ∧
  decodeCmd .T 0xC0000000#32 = .ok .enable ∧
  decodeCmd .T 0xD0000000#32 = .ok .disable ∧
  decodeCmd .P 0x100107F8#32 = .ok (.sampleCc .sample 1#8 2040#12) ∧
  decodeCmd .P 0x14010FFF#32 = .ok (.sampleCc .unavailable 1#8 0xFFF#12) ∧
  decodeCmd .P 0x20000BB8#32 = .ok (.samplePb .sample 3000#12) ∧
  decodeQreq 0x100000A#26 = .ok (.enq 0#8 10#14) ∧
  decodeQreq 0x1FF2000#26 = .ok (.enq 0xFF#8 8192#14) ∧
  decodeQreq 0x2000000#26 = .ok .deq ∧
  decodePkt 0x0BB00C7F#32 = .ok (.pktCc 12#7 127#7) ∧
  decodePkt 0x0EE03F47#32 = .ok (.pktPb 0x3F#7 0x47#7)

/-- A step runs the decoded instruction: the head of the schedule is taken off, and nothing else is added. A word at a
port is run whole, or begun and then run by micro-steps (20_memory.md R60, R65 (b); log 4); a mode change is one step at
either grain (44_mode_control.md R193). That the agents' moves are a schedule, and that the block waits with nothing
scheduled, is the model's choice (log 2). The clauses on a bare bus word and a bare packet record are the model's: no
port of the spec carries one (30_encoding.md R85; log 10). -/
def Obligations.StepRunsTheDecodedInstruction : Prop :=
  (∀ s : State, s.events = [] → step s = .next s) ∧
  (∀ (s : State) (p : Port) (w : CmdWord) (rest : List Event) (i : Instr), s.events = .command p w :: rest →
      decodeCmd p w = .ok i → portIdle p s = true → (changesMode i = true → portsIdle s = true) →
      step s = exec i { s with events := rest }) ∧
  (∀ (s : State) (p : Port) (w : CmdWord) (rest : List Event) (i : Instr), s.events = .present p w :: rest →
      decodeCmd p w = .ok i → portIdle p s = true → (changesMode i = true → portsIdle s = true) →
      step s = beginOperation i { s with events := rest }) ∧
  (∀ (s : State) (i : Instr), changesMode i = true → beginOperation i s = exec i s) ∧
  (∀ (s : State) (p : Port) (rest : List Event), s.events = .micro p :: rest →
      step s = microStep p { s with events := rest }) ∧
  (∀ (s : State) (q : QReqWord) (rest : List Event) (i : Instr), s.events = .request q :: rest →
      decodeQreq q = .ok i → portIdle (operationPort i) s = true → step s = exec i { s with events := rest }) ∧
  (∀ (s : State) (w : PktWord) (rest : List Event) (i : Instr), s.events = .record w :: rest →
      decodePkt w = .ok i → portIdle .T s = true → step s = exec i { s with events := rest })

/-- The word of any instruction, placed to be run next, is run by the very next step (log 2). -/
def Obligations.PlacedWordRunsNext : Prop :=
  ∀ (s : State) (i : Instr),
    step (s.withFetchWord 32 (encode i).toNat) = exec i { s with producer := .idle, consumer := .idle }

/-! ### SAMPLE_CC -/

/-- spec/60_exceptions.md R201, R202: a Sampler failure, or a channel that does not exist, changes the status and
nothing else. -/
def Obligations.SamplerFailuresChangeOnlyTheStatus : Prop :=
  (∀ (s : State) (res : SamplerResult) (ch : BitVec 8) (raw : RawSample),
      s.channels ≤ ch.toNat ∨ res = .invalidChannel →
      exec (.sampleCc res ch raw) s = .next { s with pstat := .invalidChannel }) ∧
  (∀ (s : State) (ch : BitVec 8) (raw : RawSample), ch.toNat < s.channels →
      exec (.sampleCc .unavailable ch raw) s = .next { s with pstat := .sampleTimeout }) ∧
  (∀ (s : State) (raw : RawSample),
      exec (.samplePb .invalidChannel raw) s = .next { s with pstat := .invalidChannel }) ∧
  (∀ (s : State) (raw : RawSample),
      exec (.samplePb .unavailable raw) s = .next { s with pstat := .sampleTimeout })

/-- spec/40_quantizer.md R111, R112, R114 line 3: a sample inside the window, either end included, reports nothing and
writes nothing, in either mode. -/
def Obligations.SamplesInsideTheWindowReportNothing : Prop :=
  ∀ (s : State) (ch : BitVec 8) (raw : RawSample), ch.toNat < s.channels →
    InWindow (lrvRead s ch.toNat) raw →
    exec (.sampleCc .sample ch raw) s = .next { s with pstat := .noEvent }

/-- spec/40_quantizer.md R116: priming updates the cached value on a change, and only then, and makes no request. -/
def Obligations.PrimingUpdatesWithoutEnqueueing : Prop :=
  ∀ (s : State) (ch : BitVec 8) (raw : RawSample), ch.toNat < s.channels → s.mode = .disabled →
    (¬ InWindow (lrvRead s ch.toNat) raw →
      exec (.sampleCc .sample ch raw) s =
        .next { s with lrv := s.lrv.set ch.toNat (binOf raw), pstat := .noEvent }) ∧
    (InWindow (lrvRead s ch.toNat) raw →
      exec (.sampleCc .sample ch raw) s = .next { s with pstat := .noEvent })

/-- spec/40_quantizer.md R115: while Enabled a change is enqueued, and the cached value advances only if the queue
had room. The model's own record of the answer (log 9) is left free. -/
def Obligations.ChangesWhileEnabledAreEnqueued : Prop :=
  ∀ (s : State) (ch : BitVec 8) (raw : RawSample), ch.toNat < s.channels → s.mode = .enabled →
    ¬ InWindow (lrvRead s ch.toNat) raw →
    ((s.wr + 1) % s.capacity ≠ s.rd →
      ∃ answer, exec (.sampleCc .sample ch raw) s = .next { s with
        lrv := s.lrv.set ch.toNat (binOf raw)
        slots := Memory.write s.slots ((s.wr + 1) % s.capacity) (controlEntry ch raw)
        wr := (s.wr + 1) % s.capacity
        pstat := .enqueued
        enqAnswer := answer }) ∧
    ((s.wr + 1) % s.capacity = s.rd →
      ∃ answer, exec (.sampleCc .sample ch raw) s =
        .next { s with pstat := .queueFull, enqAnswer := answer })

/-- spec/40_quantizer.md R118: a change's candidate differs from the cached value; no event repeats the value last
reported, and a report or a priming update changes the cached value. -/
def Obligations.ReportedValueDiffersFromTheCachedOne : Prop :=
  (∀ (v : BitVec 7) (raw : RawSample), ¬ InWindow v raw → candidate raw ≠ v) ∧
  (∀ (s t : State) (ch : BitVec 8) (raw : RawSample), ch.toNat < s.channels →
      exec (.sampleCc .sample ch raw) s = .next t → t.pstat = .enqueued →
      lrvRead t ch.toNat ≠ lrvRead s ch.toNat ∧
      ∃ e, slotRead t t.wr = some e ∧ e.tag = ch ∧ e.value.toNat ≠ (lrvRead s ch.toNat).toNat ∧
        e.value.toNat = (lrvRead t ch.toNat).toNat) ∧
  (∀ (s t : State) (ch : BitVec 8) (raw : RawSample), ch.toNat < s.channels → s.mode = .disabled →
      ¬ InWindow (lrvRead s ch.toNat) raw → exec (.sampleCc .sample ch raw) s = .next t →
      lrvRead t ch.toNat ≠ lrvRead s ch.toNat)

/-- spec/40_quantizer.md R119: once acknowledged, the same sample gives NO_EVENT; a report the full queue dropped is
tried again. -/
def Obligations.AcknowledgedSamplesDoNotRetrigger : Prop :=
  ∀ (s t : State) (ch : BitVec 8) (raw : RawSample), ch.toNat < s.channels →
    exec (.sampleCc .sample ch raw) s = .next t →
    (t.pstat ≠ .queueFull → exec (.sampleCc .sample ch raw) t = .next { t with pstat := .noEvent }) ∧
    (t.pstat = .queueFull → t.lrv = s.lrv ∧ exec (.sampleCc .sample ch raw) t = .next t)

/-- spec/40_quantizer.md R120: the window's reach on either side of the bin, and how far a sample must go to move the
reported value by one. -/
def Obligations.ReportThresholdsAreAsymmetric : Prop :=
  ∀ (v : BitVec 7) (raw : RawSample),
    windowLo v = 32 * (v.toNat : Int) - 8 ∧ windowHi v = 32 * (v.toNat : Int) + 31 + 9 ∧
    (candidate raw).toNat = raw.toNat / 32 ∧
    (Change v raw ∧ (candidate raw).toNat = v.toNat + 1 ↔
      32 * v.toNat + 41 ≤ raw.toNat ∧ raw.toNat < 32 * (v.toNat + 2)) ∧
    (Change v raw ∧ (candidate raw).toNat + 1 = v.toNat ↔
      32 * v.toNat ≤ raw.toNat + 32 ∧ raw.toNat + 9 ≤ 32 * v.toNat)

/-- spec/60_exceptions.md R203, 40_quantizer.md R119, 41_pitchbend.md R143: a report dropped by a full queue is tried
again by the next sample once a DEQ has made room. A control channel's same sample is enqueued. A pitch-bend report
leaves `ls` as it was, so the next sample is enqueued whenever its value differs from `ls`, and a sample within the noise
gate has the dropped value still, which does differ: this retry rests on the spec's decision D13. -/
def Obligations.DroppedReportIsRetried : Prop :=
  (∀ (s : State) (ch : BitVec 8) (raw : RawSample), ch.toNat < s.channels → s.mode = .enabled →
    ¬ InWindow (lrvRead s ch.toNat) raw → 2 ≤ s.capacity → IndicesOk s → QueueFull s →
    (slotRead s (advance s.capacity s.rd)).isSome = true →
    ∃ t u v, exec (.sampleCc .sample ch raw) s = .next t ∧ t.pstat = .queueFull ∧
      exec .deq t = .next u ∧ exec (.sampleCc .sample ch raw) u = .next v ∧ v.pstat = .enqueued ∧
      lrvRead v ch.toNat = binOf raw ∧ slotRead v v.wr = some (controlEntry ch raw)) ∧
  (∀ (s : State) (raw : RawSample), s.mode = .enabled → s.ls ≠ some (bendOf s.sm raw) →
    2 ≤ s.capacity → IndicesOk s → QueueFull s → (slotRead s (advance s.capacity s.rd)).isSome = true →
    ∃ t u, exec (.samplePb .sample raw) s = .next t ∧ t.pstat = .queueFull ∧ t.ls = s.ls ∧ exec .deq t = .next u ∧
      ∀ next : RawSample,
        (t.ls ≠ some (bendOf t.sm next) →
          ∃ v, exec (.samplePb .sample next) u = .next v ∧ v.pstat = .enqueued ∧
            v.ls = some (bendOf t.sm next) ∧ slotRead v v.wr = some (bendEntry (bendOf t.sm next))) ∧
        (-31 ≤ deltaOf t.sm next → deltaOf t.sm next ≤ 31 →
          bendOf t.sm next = bendOf s.sm raw ∧ t.ls ≠ some (bendOf t.sm next)))

/-- spec/44_mode_control.md R198, 70_reset_and_hazards.md R233: one priming sample seeds a channel, so that after
ENABLE the same sample gives NO_EVENT. -/
def Obligations.PrimedChannelIsQuietAfterEnable : Prop :=
  ∀ (s t u : State) (ch : BitVec 8) (raw : RawSample), ch.toNat < s.channels → s.mode = .disabled →
    exec (.sampleCc .sample ch raw) s = .next t → exec .enable t = .next u →
    u.mode = .enabled ∧ u.wr = s.wr ∧ u.slots = s.slots ∧
    exec (.sampleCc .sample ch raw) u = .next { u with pstat := .noEvent }

/-! ### SAMPLE_PB -/

/-- spec/41_pitchbend.md R131 to R136, 42_event_queue.md R152: `sm` after a sample is the smoothed value (the value it
had, within the noise gate) whatever follows; a value is enqueued only while Enabled and only if it differs from the
last one sent; that one advances only if the queue had room. That a sample within the gate still reaches the fix-up and
the ENQ, that the scale division truncates, and that the deadband takes in its ends are the spec's decisions D13, D14 and
D15. The model's own record of the answer (log 9) is left free. -/
def Obligations.PitchBendSampleResult : Prop :=
  ∀ (s : State) (raw : RawSample),
    (s.mode = .disabled ∨ s.ls = some (bendOf s.sm raw) →
      exec (.samplePb .sample raw) s = .next { s with sm := smoothed s.sm raw, pstat := .noEvent }) ∧
    (s.mode = .enabled → s.ls ≠ some (bendOf s.sm raw) → (s.wr + 1) % s.capacity ≠ s.rd →
      ∃ answer, exec (.samplePb .sample raw) s = .next { s with
        sm := smoothed s.sm raw
        ls := some (bendOf s.sm raw)
        slots := Memory.write s.slots ((s.wr + 1) % s.capacity) (bendEntry (bendOf s.sm raw))
        wr := (s.wr + 1) % s.capacity
        pstat := .enqueued
        enqAnswer := answer }) ∧
    (s.mode = .enabled → s.ls ≠ some (bendOf s.sm raw) → (s.wr + 1) % s.capacity = s.rd →
      ∃ answer, exec (.samplePb .sample raw) s = .next { s with
        sm := smoothed s.sm raw
        pstat := .queueFull
        enqAnswer := answer })

/-- spec/41_pitchbend.md R139: where `sm` stays, and where the fixed-up value reaches its ends and its centre. -/
def Obligations.PitchBendRanges : Prop :=
  (∀ (s : State) (raw : RawSample), SmOk s → 0 ≤ smooth s.sm raw ∧ smooth s.sm raw ≤ 16380) ∧
  (∀ x : Int, 0 ≤ x → x ≤ 16380 →
      0 ≤ scale x ∧ scale x ≤ 16383 ∧ ((fixedup x).toNat : Int) = scale x ∧
      (scale x = 0 ↔ x ≤ 65) ∧ (scale x = 16383 ↔ 16318 ≤ x) ∧ (scale x = 8192 ↔ 8092 ≤ x ∧ x ≤ 8292))

/-- spec/41_pitchbend.md R140: the fix-up is monotonic non-decreasing, and collapses the deadband, ends included. -/
def Obligations.FixUpIsMonotone : Prop :=
  (∀ x y : Int, x ≤ y → scale x ≤ scale y) ∧
  (∀ x : Int, -100 ≤ x - 8192 → x - 8192 ≤ 100 → scale x = 8192) ∧
  scale 8091 = 8091 ∧ scale 8293 = 8293

/-- spec/41_pitchbend.md R132, R133: the noise gate leaves `sm`; otherwise it moves a quarter of the way, truncated
toward zero, by at least 8, and never past the control. -/
def Obligations.SmoothingMovesTowardTheControl : Prop :=
  ∀ (s : State) (raw : RawSample), ∃ t, exec (.samplePb .sample raw) s = .next t ∧
    (-31 ≤ deltaOf s.sm raw ∧ deltaOf s.sm raw ≤ 31 → t.sm = s.sm) ∧
    (31 < deltaOf s.sm raw → t.sm = s.sm + Int.tdiv (deltaOf s.sm raw) 4 ∧
      s.sm + 8 ≤ t.sm ∧ t.sm ≤ 4 * (raw.toNat : Int)) ∧
    (deltaOf s.sm raw < -31 → t.sm = s.sm + Int.tdiv (deltaOf s.sm raw) 4 ∧
      t.sm ≤ s.sm - 8 ∧ 4 * (raw.toNat : Int) ≤ t.sm)

/-- spec/41_pitchbend.md R142: under a constant input 22 samples bring `sm` within the noise gate from anywhere, and
from then on it stays. -/
def Obligations.ConstantPitchBendConverges : Prop :=
  ∀ (s : State) (raw : RawSample), SmOk s →
    ∃ t, bendTimes raw 22 s = .next t ∧ -31 ≤ deltaOf t.sm raw ∧ deltaOf t.sm raw ≤ 31 ∧
      ∃ u, exec (.samplePb .sample raw) t = .next u ∧ u.sm = t.sm

/-- spec/40_quantizer.md R110, R114, 41_pitchbend.md R136: what the SAMPLE operations leave alone. A sample stores at
most the slot after the write index, and only when it reports ENQUEUED. `enqAnswer` is the model's own field (log 9). -/
def Obligations.FrameOfSampleOperations : Prop :=
  (∀ (s t : State) (res : SamplerResult) (ch : BitVec 8) (raw : RawSample),
      exec (.sampleCc res ch raw) s = .next t →
      t = { s with lrv := t.lrv, slots := t.slots, wr := t.wr, pstat := t.pstat, enqAnswer := t.enqAnswer } ∧
      t.channels = s.channels ∧ (∀ j, j ≠ ch.toNat → t.lrv[j]? = s.lrv[j]?) ∧
      (∀ j, j ≠ advance s.capacity s.wr → slotRead t j = slotRead s j) ∧
      (t.pstat ≠ .enqueued → t.slots = s.slots ∧ t.wr = s.wr)) ∧
  (∀ (s t : State) (res : SamplerResult) (raw : RawSample), exec (.samplePb res raw) s = .next t →
      t = { s with
        sm := t.sm, ls := t.ls, slots := t.slots, wr := t.wr, pstat := t.pstat, enqAnswer := t.enqAnswer } ∧
      (∀ j, j ≠ advance s.capacity s.wr → slotRead t j = slotRead s j) ∧
      (t.pstat ≠ .enqueued → t.slots = s.slots ∧ t.wr = s.wr ∧ t.ls = s.ls))

/-! ### The queue -/

/-- spec/42_event_queue.md R152, R153: ENQ stores the entry in the slot after `wr` and publishes it, or answers
`full` and changes nothing. That the answer is kept in a field is the model's choice (log 9). -/
def Obligations.EnqResult : Prop :=
  ∀ (s : State) (tag : BitVec 8) (value : BitVec 14),
    ((s.wr + 1) % s.capacity = s.rd →
      exec (.enq tag value) s = .next { s with enqAnswer := some (answerOf false 0) }) ∧
    ((s.wr + 1) % s.capacity ≠ s.rd →
      ∃ t, exec (.enq tag value) s = .next t ∧
        t = { s with
          slots := t.slots, wr := (s.wr + 1) % s.capacity, enqAnswer := some (answerOf true 0) } ∧
        slotRead t ((s.wr + 1) % s.capacity) = some { tag := tag, value := value } ∧
        ∀ j, j ≠ (s.wr + 1) % s.capacity → slotRead t j = slotRead s j)

/-- spec/42_event_queue.md R155: DEQ answers `empty` and changes nothing, or moves `rd` on and answers the entry at
the new position. No slot is cleared. That the answer is kept in a field is the model's choice (log 9). -/
def Obligations.DeqResult : Prop :=
  ∀ s : State,
    (s.rd = s.wr → exec .deq s = .next { s with deqAnswer := some (answerOf false 0) }) ∧
    (∀ e, s.rd ≠ s.wr → slotRead s ((s.rd + 1) % s.capacity) = some e →
      exec .deq s = .next { s with
        rd := (s.rd + 1) % s.capacity
        deqAnswer := some (answerOf true (entryNum e)) })

/-- spec/42_event_queue.md R156, R159, 10_state.md R31: ENQ adds at the young end, DEQ takes at the old end, and the
count follows. The answer is read from the model's own field (log 9). -/
def Obligations.QueueIsFirstInFirstOut : Prop :=
  ∀ s : State, 2 ≤ s.capacity → IndicesOk s → QueueOk s →
    (∀ (tag : BitVec 8) (value : BitVec 14), ¬ QueueFull s →
      ∃ t, exec (.enq tag value) s = .next t ∧ queued t = queued s ++ [{ tag := tag, value := value }] ∧
        queueCount t = queueCount s + 1 ∧ queueCount t ≤ s.capacity - 1) ∧
    (s.rd ≠ s.wr →
      ∃ t e, exec .deq s = .next t ∧ queued s = e :: queued t ∧ t.deqAnswer = some (answerOf true (entryNum e)) ∧
        queueCount t + 1 = queueCount s)

/-- spec/42_event_queue.md R157: from an empty queue exactly `C - 1` successive enqueues succeed and the `C`-th
fails, and the stored entries are unaltered. The answers are read from the model's own field (log 9). -/
def Obligations.CapacityIsOneLessThanTheSlots : Prop :=
  ∀ (s : State) (es : List Entry), 2 ≤ s.capacity → IndicesOk s → s.rd = s.wr → es.length = s.capacity →
    ∃ t, enqueueAll es s = some (t, List.replicate (s.capacity - 1) (some (answerOf true 0)) ++
        [some (answerOf false 0)]) ∧
      queued t = es.take (s.capacity - 1)

/-- spec/20_memory.md R65: every interleaving of the micro-steps of one ENQ and one DEQ ends as one of the two orders
of the whole operations does. -/
def Obligations.EnqAndDeqAreLinearisable : Prop :=
  ∀ (s t : State) (r : Report) (ok : Bool) (order : List Port), Inv s →
    s.producer = .eq1 r → s.consumer = .dq1 → order.count .T ≤ 3 → runMicro order s = .next t →
    t.producer = .answered r ok → (t.consumer = .fn4 ∨ ∃ e, t.consumer = .write e) →
    wholeDeq (wholeEnq r s) = .next t ∨ andThen (wholeDeq s) (fun u => .next (wholeEnq r u)) = .next t

/-- spec/42_event_queue.md R152, R155: what the bare requests leave alone. The answer fields are the model's own (log
9). -/
def Obligations.FrameOfQueueRequests : Prop :=
  (∀ (s t : State) (tag : BitVec 8) (value : BitVec 14), exec (.enq tag value) s = .next t →
      t = { s with slots := t.slots, wr := t.wr, enqAnswer := t.enqAnswer } ∧
      ∀ j, j ≠ advance s.capacity s.wr → slotRead t j = slotRead s j) ∧
  (∀ s t : State, exec .deq s = .next t → t = { s with rd := t.rd, deqAnswer := t.deqAnswer })

/-! ### Micro-steps -/

/-- spec/20_memory.md R61, R54, R56: which state each agent's micro-steps may write, and where in a memory or a register
file: the producer only the slot its EQ2 names and the register of the channel it reports or primes, the consumer only
the four bytes of the packet it writes. The phases and the answer fields are the model's (log 5, 9). -/
def Obligations.EachAgentWritesOnlyItsOwnState : Prop :=
  (∀ s t : State, microStep .P s = .next t →
      t = { s with
        lrv := t.lrv, sm := t.sm, ls := t.ls, wr := t.wr, slots := t.slots, pstat := t.pstat,
        producer := t.producer, enqAnswer := t.enqAnswer } ∧
      (∀ j, (∀ r, s.producer ≠ .eq2 r j) → slotRead t j = slotRead s j) ∧
      (∀ j, (∀ res ch raw, s.producer = .sampled (.control res ch raw) → ch.toNat ≠ j) →
        (∀ ch cand, s.producer = .answered (.control ch cand) true → ch.toNat ≠ j) → t.lrv[j]? = s.lrv[j]?)) ∧
  (∀ s t : State, microStep .T s = .next t →
      t = { s with
        rd := t.rd, tx := t.tx, txn := t.txn, tstat := t.tstat, epBusy := t.epBusy, txlog := t.txlog,
        consumer := t.consumer, deqAnswer := t.deqAnswer } ∧
      (∀ off, (∀ e, s.consumer = .write e → off < s.txn ∨ s.txn + 4 ≤ off) → txRead t off = txRead s off))

/-- spec/10_state.md R33, 40_quantizer.md R114, 41_pitchbend.md R136, 43_packetizer.md R178: the micro-step that ends an
operation writes the code its rule gives in the status register of its port, and no earlier one writes it. Where the
operations end is said in the spec's terms (`producerEnd`, `consumerEnd`). That a sample within the noise gate may go on
to an ENQ rests on the spec's decision D13. The grain of the micro-steps is the model's (log 5). -/
def Obligations.StatusIsWrittenByTheLastMicroStep : Prop :=
  (∀ s : State, s.producer ≠ .idle → ∃ t, microStep .P s = .next t ∧
      (∀ c, producerEnd s = some c → t.producer = .idle ∧ t.pstat = c) ∧
      (producerEnd s = none → t.producer ≠ .idle ∧ t.pstat = s.pstat)) ∧
  (∀ s t : State, s.consumer ≠ .idle → microStep .T s = .next t →
      (∀ c, consumerEnd s = some c → t.consumer = .idle ∧ t.tstat = c) ∧
      (consumerEnd s = none → t.consumer ≠ .idle ∧ t.tstat = s.tstat))

/-- spec/20_memory.md R68, 70_reset_and_hazards.md R244: no operation in progress ever waits or stops, whatever the
other agent has done. The grain of the micro-steps is the model's (log 5). -/
def Obligations.NoMicroStepEverWaits : Prop :=
  ∀ (s : State) (p : Port), Inv s →
    ∃ t, microStep p s = .next t ∧ (portIdle p s = false → t ≠ s)

/-- spec/20_memory.md R65 (b), 40_quantizer.md R114, 41_pitchbend.md R136: a SAMPLE operation run by its micro-steps,
with no other agent between them, is the operation as one step. Five micro-steps always suffice. The two grains are
the model's (log 4, 5). -/
def Obligations.MicroStepsOfSampleOperationsAreTheOperation : Prop :=
  ∀ s : State, s.producer = .idle →
    (∀ (res : SamplerResult) (ch : BitVec 8) (raw : RawSample),
      andThen (beginOperation (.sampleCc res ch raw) s) (runPort .P 5) = exec (.sampleCc res ch raw) s) ∧
    (∀ (res : SamplerResult) (raw : RawSample),
      andThen (beginOperation (.samplePb res raw) s) (runPort .P 5) = exec (.samplePb res raw) s)

/-- spec/20_memory.md R65 (b), 43_packetizer.md R178, R179: FRAME_NOTIFY run by its micro-steps, with no other agent
between them, is the operation as one step. It takes at most 84 of them. The two grains are the model's (log 4, 5). -/
def Obligations.MicroStepsOfFrameNotifyAreTheOperation : Prop :=
  ∀ s : State, s.consumer = .idle →
    andThen (beginOperation .frameNotify s) (runPort .T 84) = exec .frameNotify s

/-! ### FRAME_NOTIFY and the packets -/

/-- spec/60_exceptions.md R204, 43_packetizer.md R171: while a transfer is in flight a notification reports that and
does nothing else. -/
def Obligations.FrameNotifyWhileBusy : Prop :=
  ∀ s : State, s.epBusy = true → exec .frameNotify s = .next { s with tstat := .endpointBusy }

/-- spec/43_packetizer.md R176, R179: a drain of an empty queue submits nothing. `deqAnswer` is the model's own field
(log 9). -/
def Obligations.FrameNotifyOnAnEmptyQueue : Prop :=
  ∀ s : State, s.epBusy = false → s.rd = s.wr →
    exec .frameNotify s =
      .next { s with txn := 0, tstat := .noTransfer, deqAnswer := some (answerOf false 0) }

/-- spec/43_packetizer.md R172, R175 to R179: a drain takes the oldest entries, at most 16, writes their packets from
offset 0 up in order, submits exactly those bytes, and leaves the rest of the queue. `deqAnswer` is the model's own
field (log 9). -/
def Obligations.FrameNotifyDrainsAndSubmits : Prop :=
  ∀ s : State, ParamsOk s → IndicesOk s → QueueOk s → s.epBusy = false → s.rd ≠ s.wr →
    let es := (queued s).take 16
    let bytes := es.flatMap (entryBytes s.channels)
    ∃ t, exec .frameNotify s = .next t ∧
      t = { s with
        rd := (s.rd + es.length) % s.capacity
        tx := t.tx
        txn := 4 * es.length
        tstat := .submitted
        epBusy := true
        txlog := s.txlog ++ [{ bytes := bytes, len := 4 * es.length, short := decide (4 * es.length ≠ 64) }]
        deqAnswer := t.deqAnswer } ∧
      bytes.length = 4 * es.length ∧ 0 < es.length ∧
      (∀ k, k < 4 * es.length → txRead t k = bytes[k]?) ∧
      (∀ k, 4 * es.length ≤ k → txRead t k = txRead s k) ∧
      queued t = (queued s).drop 16

/-- spec/43_packetizer.md R178: what FRAME_NOTIFY leaves alone, in every state. It stores below the new `txn` only; a
notification turned away stores nothing. `deqAnswer` is the model's own field (log 9). -/
def Obligations.FrameOfFrameNotify : Prop :=
  ∀ s t : State, exec .frameNotify s = .next t →
    t = { s with
      rd := t.rd, tx := t.tx, txn := t.txn, tstat := t.tstat, epBusy := t.epBusy, txlog := t.txlog,
      deqAnswer := t.deqAnswer } ∧
    (∀ off, t.txn ≤ off → txRead t off = txRead s off) ∧
    (s.epBusy = true → t = { s with tstat := .endpointBusy })

/-- spec/30_encoding.md R89, R90: the four bytes of an entry's packet, in order. -/
def Obligations.EntriesBecomeTheTwoPacketFormats : Prop :=
  ∀ (n : Nat) (e : Entry), n ≤ 117 →
    (e.tag = 0xFF#8 →
      entryBytes n e =
        [0x0E#8, 0xE0#8, BitVec.ofNat 8 (e.value.toNat % 128), BitVec.ofNat 8 (e.value.toNat / 128)]) ∧
    (e.tag.toNat < n →
      entryBytes n e =
        [0x0B#8, 0xB0#8, BitVec.ofNat 8 (e.tag.toNat + 11), BitVec.ofNat 8 (e.value.toNat % 128)] ∧
      11 ≤ e.tag.toNat + 11 ∧ e.tag.toNat + 11 ≤ 127)

/-- spec/30_encoding.md R89, R90, 20_memory.md R55: a packet record puts its four bytes at `txn`, lowest offset first,
and adds 4 to `txn`, when the buffer has room and is the block's (log 12). -/
def Obligations.PacketRecordsAppendTheirBytes : Prop :=
  ∀ s : State, s.epBusy = false → s.txn + 4 ≤ 64 →
    (∀ c v : BitVec 7, ∃ t, exec (.pktCc c v) s = .next t ∧
      t = { s with tx := t.tx, txn := s.txn + 4 } ∧
      txRead t s.txn = some 0x0B#8 ∧ txRead t (s.txn + 1) = some 0xB0#8 ∧
      txRead t (s.txn + 2) = some (BitVec.ofNat 8 c.toNat) ∧
      txRead t (s.txn + 3) = some (BitVec.ofNat 8 v.toNat) ∧
      ∀ off, off < s.txn ∨ s.txn + 4 ≤ off → txRead t off = txRead s off) ∧
    (∀ l m : BitVec 7, ∃ t, exec (.pktPb l m) s = .next t ∧
      t = { s with tx := t.tx, txn := s.txn + 4 } ∧
      txRead t s.txn = some 0x0E#8 ∧ txRead t (s.txn + 1) = some 0xE0#8 ∧
      txRead t (s.txn + 2) = some (BitVec.ofNat 8 l.toNat) ∧
      txRead t (s.txn + 3) = some (BitVec.ofNat 8 m.toNat) ∧
      ∀ off, off < s.txn ∨ s.txn + 4 ≤ off → txRead t off = txRead s off)

/-- The forms the model stops on by name: a slot never written (log 7), a tag that names nothing (log 11, R187), a
packet record with no room or with a transfer in flight (log 12). -/
def Obligations.FormsTheModelStopsOn : Prop :=
  (∀ s : State, s.rd ≠ s.wr → slotRead s ((s.rd + 1) % s.capacity) = none →
      exec .deq s = .fault .slotNotWritten) ∧
  (∀ (s : State) (e : Entry), s.epBusy = false → s.rd ≠ s.wr →
      slotRead s ((s.rd + 1) % s.capacity) = some e → e.tag ≠ 0xFF#8 → s.channels ≤ e.tag.toNat →
      exec .frameNotify s = .refused (.unknownTag e.tag)) ∧
  (∀ (s : State) (c v : BitVec 7), s.epBusy = true →
      exec (.pktCc c v) s = .refused .transmitBufferInFlight ∧
      exec (.pktPb c v) s = .refused .transmitBufferInFlight) ∧
  (∀ (s : State) (c v : BitVec 7), s.epBusy = false → 64 < s.txn + 4 →
      exec (.pktCc c v) s = .refused .transmitBufferFull ∧ exec (.pktPb c v) s = .refused .transmitBufferFull)

/-! ### The mode -/

/-- spec/44_mode_control.md R191, R192: ENABLE writes the mode and the status; DISABLE also discards the queue. -/
def Obligations.ModeOperationsResult : Prop :=
  decodeCmd .T 0xC0000000#32 = .ok .enable ∧ decodeCmd .T 0xD0000000#32 = .ok .disable ∧
  ∀ s : State,
    exec .enable s = .next { s with mode := .enabled, tstat := .modeOk } ∧
    exec .disable s = .next { s with mode := .disabled, rd := s.wr, tstat := .modeOk } ∧
    queued { s with mode := .disabled, rd := s.wr, tstat := .modeOk } = []

/-- spec/44_mode_control.md R193, 70_reset_and_hazards.md R240: a mode change finds both ports idle or is stuck, and
an occupied port takes no second operation (log 15). -/
def Obligations.OperationsBeginAtBoundaries : Prop :=
  (∀ (s : State) (w : CmdWord) (rest : List Event), w = 0xC0000000#32 ∨ w = 0xD0000000#32 →
      s.events = .command .T w :: rest ∨ s.events = .present .T w :: rest →
      s.consumer = .idle → s.producer ≠ .idle → step s = .fault .stuckModeChange) ∧
  (∀ (s : State) (p : Port) (w : CmdWord) (rest : List Event),
      s.events = .command p w :: rest ∨ s.events = .present p w :: rest → portIdle p s = false →
      step s = .refused (.portOccupied p))

/-- spec/44_mode_control.md R195: FRAME_NOTIFY, ENQ and DEQ do not read the mode, and neither do the packet records.
A record on its own is the model's (log 12). -/
def Obligations.DrainAndQueueIgnoreTheMode : Prop :=
  ∀ (s : State) (m : Mode),
    exec .frameNotify { s with mode := m } = mapNext (fun t => { t with mode := m }) (exec .frameNotify s) ∧
    exec .deq { s with mode := m } = mapNext (fun t => { t with mode := m }) (exec .deq s) ∧
    (∀ (tag : BitVec 8) (value : BitVec 14), exec (.enq tag value) { s with mode := m } =
      mapNext (fun t => { t with mode := m }) (exec (.enq tag value) s)) ∧
    (∀ c v : BitVec 7,
      exec (.pktCc c v) { s with mode := m } = mapNext (fun t => { t with mode := m }) (exec (.pktCc c v) s) ∧
      exec (.pktPb c v) { s with mode := m } = mapNext (fun t => { t with mode := m }) (exec (.pktPb c v) s))

/-- spec/60_exceptions.md R212, 42_event_queue.md R162: a SAMPLE operation sees of the consumer's side only `rd`. -/
def Obligations.SampleOperationsIgnoreTheConsumerSide : Prop :=
  ∀ s u : State,
    (∀ (res : SamplerResult) (ch : BitVec 8) (raw : RawSample),
      exec (.sampleCc res ch raw) (withConsumerSide u s) =
        mapNext (withConsumerSide u) (exec (.sampleCc res ch raw) s)) ∧
    (∀ (res : SamplerResult) (raw : RawSample),
      exec (.samplePb res raw) (withConsumerSide u s) =
        mapNext (withConsumerSide u) (exec (.samplePb res raw) s))

/-- spec/44_mode_control.md R197, R198: while Disabled no step but RESET moves the write index or writes a slot, and
the queue stays empty. -/
def Obligations.NothingIsEnqueuedWhileDisabled : Prop :=
  ∀ s t : State, Inv s → s.mode = .disabled → s.events.head? ≠ some .reset → step s = .next t →
    t.wr = s.wr ∧ t.slots = s.slots ∧ t.rd = t.wr

/-! ### The whole machine -/

/-- spec/10_state.md R39, R40, 70_reset_and_hazards.md R230: the invariant holds after reset, for every `N` and `C`.
The numbers of State.reset are the model's choice (log 1). -/
def Obligations.InvariantHoldsAfterReset : Prop :=
  (∀ n c : Nat, 1 ≤ n → n ≤ 117 → 2 ≤ c → c ≤ 65536 → Inv (State.resetWith n c)) ∧ Inv State.reset

/-- spec/10_state.md R31, R40, 20_memory.md R70, 43_packetizer.md R184, 44_mode_control.md R197: every step of every
agent, at either grain and in any order, keeps the invariant. Bare bus words and records are no moves of the outside
(log 10). -/
def Obligations.EveryStepKeepsTheInvariant : Prop :=
  ∀ s t : State, Inv s → step s = .next t → Inv t

/-- spec/20_memory.md R71, 43_packetizer.md R185: no step reorders, loses or invents a packet. The stream of packets
sent, being drained and queued grows by exactly what an ENQ publishes; only DISABLE and RESET take from it. -/
def Obligations.StreamIsKeptByEveryStep : Prop :=
  ∀ s t : State, Inv s → s.events.head? ≠ some .reset → (s.mode = .enabled → t.mode = .enabled) →
    step s = .next t → stream t = stream s ++ published s t

/-- spec/10_state.md R35, R36, R39: in a state of the invariant no step reads a slot or a byte that was never written,
and no dequeued tag is unknown. -/
def Obligations.NoStepReadsUnwrittenMemory : Prop :=
  ∀ s : State, Inv s →
    step s ≠ .fault .slotNotWritten ∧ step s ≠ .fault .byteNotWritten ∧ ∀ tag, step s ≠ .refused (.unknownTag tag)

/-- spec/43_packetizer.md R184: the log grows one transfer at a time, only with the endpoint idle before and busy
after; and only TRANSFER_DONE and RESET make a busy endpoint idle. -/
def Obligations.AtMostOneTransferIsInFlight : Prop :=
  ∀ s t : State, Inv s → s.events.head? ≠ some .reset → step s = .next t →
    (t.txlog = s.txlog ∨
      (s.epBusy = false ∧ t.epBusy = true ∧ ∃ tr, TransferOk tr ∧ t.txlog = s.txlog ++ [tr])) ∧
    (s.epBusy = true → t.epBusy = false → s.events.head? = some .transferDone) ∧
    (s.epBusy = false → t.epBusy = true → t.txlog ≠ s.txlog)

/-- spec/20_memory.md R70: while a transfer is in flight no step writes the buffer or `txn`, so the transport reads
the bytes as they were at SUBMIT. -/
def Obligations.BufferIsUntouchedInFlight : Prop :=
  ∀ s t : State, Inv s → s.epBusy = true → t.epBusy = true → step s = .next t →
    t.tx = s.tx ∧ t.txn = s.txn ∧ t.txlog = s.txlog

/-- spec/10_state.md R28: the mode is written only by ENABLE and DISABLE (and by RESET). -/
def Obligations.ModeIsWrittenOnlyByItsOperations : Prop :=
  ∀ s t : State, step s = .next t → t.mode ≠ s.mode →
    ∃ e, s.events.head? = some e ∧
      (e = .reset ∨
        (t.mode = .enabled ∧ (e = .command .T 0xC0000000#32 ∨ e = .present .T 0xC0000000#32)) ∨
        (t.mode = .disabled ∧ (e = .command .T 0xD0000000#32 ∨ e = .present .T 0xD0000000#32)))

/-- spec/00_scope.md R7, 20_memory.md R51: no step changes the number of channels or the capacity. That RESET keeps
them is the model's choice (log 21). -/
def Obligations.ParametersNeverChange : Prop :=
  ∀ s t : State, step s = .next t → t.channels = s.channels ∧ t.capacity = s.capacity

/-- spec/43_packetizer.md R181: TRANSFER_DONE clears the busy bit, whatever operations are in progress, and does
nothing else; it is not enabled while no transfer is in flight. The stop's name is the model's (log 15). -/
def Obligations.TransferDoneOnlyClearsBusy : Prop :=
  ∀ (s : State) (rest : List Event), s.events = .transferDone :: rest →
    (s.epBusy = true → step s = .next { s with epBusy := false, events := rest }) ∧
    (s.epBusy = false → step s = .fault .stuckTransferDone)

/-- spec/70_reset_and_hazards.md R230, 10_state.md R39: what RESET leaves in every register, for any `N` and `C`; it
is not taken while an operation is in progress. That the schedule stays is the model's choice (log 21). -/
def Obligations.ResetPutsEveryRegisterAtItsResetValue : Prop :=
  ∀ (s : State) (rest : List Event), s.events = .reset :: rest →
    (s.producer = .idle → s.consumer = .idle →
      ∃ t, step s = .next t ∧ t.sm = 8192 ∧ t.ls = none ∧ t.mode = .disabled ∧
        t.channels = s.channels ∧ (∀ i, i < s.channels → lrvRead t i = 0#7) ∧
        t.rd = 0 ∧ t.wr = 0 ∧ t.txn = 0 ∧ t.pstat = .noEvent ∧ t.tstat = .noEvent ∧ t.epBusy = false ∧
        t.txlog = [] ∧ (∀ i, slotRead t i = none) ∧ (∀ off, txRead t off = none) ∧
        t.producer = .idle ∧ t.consumer = .idle ∧ t.capacity = s.capacity ∧ t.events = rest) ∧
    (s.producer ≠ .idle ∨ s.consumer ≠ .idle → step s = .fault .stuckReset)

/-- spec/70_reset_and_hazards.md R243, R250, 20_memory.md R70: idle entry and the transport's reads change nothing,
and are taken only where the environment's duty allows. No effect: log 17; the stops: log 15. -/
def Obligations.IdleEntryAndTransportReadsChangeNothing : Prop :=
  (∀ (s : State) (rest : List Event), s.events = .enterIdle :: rest →
      (portsIdle s = true → step s = .next { s with events := rest }) ∧
      (portsIdle s = false → step s = .fault .stuckIdle)) ∧
  (∀ (s : State) (rest : List Event) (off : Nat), s.events = .transportRead off :: rest →
      (s.epBusy = true → off < s.txn → step s = .next { s with events := rest }) ∧
      (s.epBusy = false ∨ s.txn ≤ off → step s = .fault .stuckTransportRead))
end

