-- ==== Sys2Proof/Laws/Decode.lean ====
section
/-! SUPPORT. The fields of a word built from fields, and the value of a word as a number: what every proof about the
decoders needs of bits. -/

namespace Sys2Proof

/-- A field cut out of the upper part of a concatenation. -/
theorem extractLsb'_append_high {n m : Nat} (x : BitVec n) (y : BitVec m) (start len : Nat) (h : m ≤ start) :
    (x ++ y).extractLsb' start len = x.extractLsb' (start - m) len := by
  apply BitVec.eq_of_getLsbD_eq
  intro i hi
  simp only [BitVec.getLsbD_extractLsb', BitVec.getLsbD_append]
  have h1 : ¬ start + i < m := by omega
  have h2 : start + i - m = start - m + i := by omega
  simp [h1, h2]

/-- A field cut out of the lower part of a concatenation. -/
theorem extractLsb'_append_low {n m : Nat} (x : BitVec n) (y : BitVec m) (start len : Nat) (h : start + len ≤ m) :
    (x ++ y).extractLsb' start len = y.extractLsb' start len := by
  apply BitVec.eq_of_getLsbD_eq
  intro i hi
  simp only [BitVec.getLsbD_extractLsb', BitVec.getLsbD_append]
  have h1 : start + i < m := by omega
  simp [h1]

/-- A field that is the whole word. -/
theorem extractLsb'_whole {n : Nat} (x : BitVec n) : x.extractLsb' 0 n = x := by
  apply BitVec.eq_of_getLsbD_eq
  intro i hi
  simp [hi]

/-- A field's value as a number. -/
theorem extractLsb'_value {n : Nat} (x : BitVec n) (start len : Nat) :
    (x.extractLsb' start len).toNat = x.toNat / 2 ^ start % 2 ^ len := by
  simp [BitVec.extractLsb'_toNat, Nat.shiftRight_eq_div_pow]

/-- `RAW_BITS = 12`: a raw sample is below 4096 (00_scope.md R6). -/
theorem RawSample.toNat_lt (raw : RawSample) : raw.toNat < 4096 := raw.isLt

/-! ### The fields of a command word -/

section
variable (op : BitVec 4) (res : BitVec 2) (ch : BitVec 8) (raw : RawSample)

@[simp] theorem cmdOp_cmdWord : cmdOp (cmdWord op res ch raw) = op := by
  unfold cmdOp cmdWord
  rw [extractLsb'_append_high _ _ _ _ (by decide)]
  exact extractLsb'_whole op

@[simp] theorem cmdRes_cmdWord : cmdRes (cmdWord op res ch raw) = res := by
  unfold cmdRes cmdWord
  rw [extractLsb'_append_low _ _ _ _ (by decide), extractLsb'_append_high _ _ _ _ (by decide)]
  exact extractLsb'_whole res

@[simp] theorem cmdZeroA_cmdWord : cmdZeroA (cmdWord op res ch raw) = 0#2 := by
  unfold cmdZeroA cmdWord
  rw [extractLsb'_append_low _ _ _ _ (by decide), extractLsb'_append_low _ _ _ _ (by decide),
    extractLsb'_append_high _ _ _ _ (by decide)]
  exact extractLsb'_whole (0#2)

@[simp] theorem cmdCh_cmdWord : cmdCh (cmdWord op res ch raw) = ch := by
  unfold cmdCh cmdWord
  rw [extractLsb'_append_low _ _ _ _ (by decide), extractLsb'_append_low _ _ _ _ (by decide),
    extractLsb'_append_low _ _ _ _ (by decide), extractLsb'_append_high _ _ _ _ (by decide)]
  exact extractLsb'_whole ch

@[simp] theorem cmdZeroB_cmdWord : cmdZeroB (cmdWord op res ch raw) = 0#4 := by
  unfold cmdZeroB cmdWord
  rw [extractLsb'_append_low _ _ _ _ (by decide), extractLsb'_append_low _ _ _ _ (by decide),
    extractLsb'_append_low _ _ _ _ (by decide), extractLsb'_append_low _ _ _ _ (by decide),
    extractLsb'_append_high _ _ _ _ (by decide)]
  exact extractLsb'_whole (0#4)

@[simp] theorem cmdRaw_cmdWord : cmdRaw (cmdWord op res ch raw) = raw := by
  unfold cmdRaw cmdWord
  rw [extractLsb'_append_low _ _ _ _ (by decide), extractLsb'_append_low _ _ _ _ (by decide),
    extractLsb'_append_low _ _ _ _ (by decide), extractLsb'_append_low _ _ _ _ (by decide),
    extractLsb'_append_low _ _ _ _ (by decide)]
  exact extractLsb'_whole raw

end

@[simp] theorem decodeRes_code (r : SamplerResult) : decodeRes r.code = .ok r := by cases r <;> rfl

/-- A result code names its result, and only the three codes do (30_encoding.md R83). -/
theorem decodeRes_eq_ok {b : BitVec 2} {r : SamplerResult} (h : decodeRes b = .ok r) : b = r.code := by
  unfold decodeRes at h
  split at h
  · cases h; assumption
  · split at h
    · cases h; assumption
    · split at h
      · cases h; assumption
      · cases h

/-! ### Words as numbers -/

/-- The value of a concatenation. -/
theorem append_value {n m : Nat} (x : BitVec n) (y : BitVec m) :
    (x ++ y).toNat = x.toNat * 2 ^ m + y.toNat := by
  rw [BitVec.toNat_append, ← Nat.shiftLeft_add_eq_or_of_lt y.isLt, Nat.shiftLeft_eq]

/-- The value of a command word (30_encoding.md R81). -/
theorem cmdWord_value (op : BitVec 4) (res : BitVec 2) (ch : BitVec 8) (raw : RawSample) :
    (cmdWord op res ch raw).toNat =
      op.toNat * 2 ^ 28 + res.toNat * 2 ^ 26 + ch.toNat * 2 ^ 16 + raw.toNat := by
  have := raw.toNat_lt
  simp only [cmdWord, append_value, BitVec.toNat_ofNat, Config.rawBits]
  omega

/-- The value of a request word (30_encoding.md R85). -/
theorem qreqWord_value (qop : BitVec 2) (tag : BitVec 8) (value : BitVec 14) :
    (qreqWord qop tag value).toNat = qop.toNat * 2 ^ 24 + tag.toNat * 2 ^ 16 + value.toNat := by
  simp only [qreqWord, append_value, BitVec.toNat_ofNat]
  omega

/-- The value of a packet record, byte 0 in the most significant place (30_encoding.md R88). -/
theorem pktWord_value (b0 b1 : Byte) (d1 d2 : BitVec 7) :
    (pktWord b0 b1 d1 d2).toNat = b0.toNat * 2 ^ 24 + b1.toNat * 2 ^ 16 + d1.toNat * 2 ^ 8 + d2.toNat := by
  simp only [pktWord, append_value, BitVec.toNat_ofNat]
  omega

/-- The value of an answer word (30_encoding.md R86). -/
theorem answerWord_value (ok : Bool) (e : EntryWord) : (answerWord ok e).toNat = ok.toNat * 2 ^ 24 + e.toNat := by
  simp only [answerWord, append_value, BitVec.toNat_ofBool]

/-- The value of an entry word (20_memory.md R52). -/
theorem entryWord_value (e : Entry) : e.word.toNat = e.tag.toNat * 2 ^ 16 + e.value.toNat := by
  simp only [Entry.word, append_value, BitVec.toNat_ofNat]
  omega

end Sys2Proof
end

