-- ==== Sys2Proof/Laws/Arithmetic.lean ====
section
/-! SUPPORT. The operands as arithmetic on numbers, so that the later proofs are linear arithmetic. -/

namespace Sys2Proof.Machine

/-- Truncating division by its two bounds, for either sign (spec/00_scope.md R11). -/
theorem tdiv_nonneg {a b : Int} (ha : 0 ≤ a) : tdiv a b = a / b := by simp [tdiv, ha]

theorem tdiv_neg {a b : Int} (ha : a < 0) : tdiv a b = -((-a) / b) := by simp [tdiv, Int.not_le.2 ha]

/-- It is the library's truncating division. -/
theorem tdiv_eq (a b : Int) : tdiv a b = Int.tdiv a b := by
  unfold tdiv
  split
  · rename_i h
    exact (Int.tdiv_eq_ediv_of_nonneg h).symm
  · rename_i h
    have h1 : (-a).tdiv b = (-a) / b := Int.tdiv_eq_ediv_of_nonneg (by omega)
    rw [← h1, Int.neg_tdiv, Int.neg_neg]

/-- `HYST = HALF_BIN + GUARD` (00_scope.md R6). -/
theorem hyst_eq : Config.hyst = Config.halfBin + Config.guard := rfl

theorem windowLo_eq (v : BitVec 7) : windowLo v = 32 * (v.toNat : Int) - 8 := by
  simp [windowLo, binCenter, Config.binWidth, Config.halfBin, Config.hyst]; omega

theorem windowHi_eq (v : BitVec 7) : windowHi v = 32 * (v.toNat : Int) + 40 := by
  simp [windowHi, binCenter, Config.binWidth, Config.halfBin, Config.hyst]; omega

/-- The change test in numbers (40_quantizer.md R111, R112). -/
theorem change_iff (v : BitVec 7) (raw : RawSample) :
    Change v raw ↔ (raw.toNat : Int) < 32 * (v.toNat : Int) - 8 ∨ 32 * (v.toNat : Int) + 40 < (raw.toNat : Int) := by
  rw [Change, windowLo_eq, windowHi_eq]

/-- The candidate in numbers (40_quantizer.md R113). -/
theorem candidate_toNat (raw : RawSample) : (candidate raw).toNat = raw.toNat / 32 := by
  have := RawSample.toNat_lt raw
  simp [candidate, Config.binShift, Nat.shiftRight_eq_div_pow]
  omega

theorem expanded_eq (raw : RawSample) : expanded raw = 4 * (raw.toNat : Int) := by
  simp [expanded, Config.pbExpandShift, Nat.shiftLeft_eq]; omega

/-- The noise gate and the smoother (41_pitchbend.md R132, R133). -/
theorem smooth_eq (sm : Int) (raw : RawSample) :
    smooth sm raw =
      if 31 < |4 * (raw.toNat : Int) - sm| then sm + tdiv (4 * (raw.toNat : Int) - sm) 4 else sm := by
  simp only [smooth, expanded_eq, Config.pbThreshold, Config.pbDampDiv]

/-- The fix-up in numbers (41_pitchbend.md R134). -/
theorem scale_eq (s : Int) :
    scale s = deadband (clamp (tdiv ((s - 8192) * 1008) 1000 + 8192)) := by
  simp only [scale, rescale, Config.pbCenter, Config.pbScaleNum, Config.pbScaleDen]

/-- The clamp leaves a value of the 14-bit domain. -/
theorem clamp_range (t : Int) : 0 ≤ clamp t ∧ clamp t ≤ 16383 := by
  simp only [clamp, Config.pbMax]
  split <;> split <;> omega

theorem deadband_range {t : Int} (h : 0 ≤ t ∧ t ≤ 16383) : 0 ≤ deadband t ∧ deadband t ≤ 16383 := by
  simp only [deadband, Config.pbCenter, Config.pbDeadband]
  split_ifs <;> omega

/-- The fixed-up value always fits its field, whatever `sm` is. -/
theorem scale_fits (s : Int) : 0 ≤ scale s ∧ scale s ≤ 16383 := deadband_range (clamp_range _)

theorem fixedup_toNat (s : Int) : ((fixedup s).toNat : Int) = scale s := by
  have := scale_fits s
  simp only [fixedup, BitVec.toNat_ofInt]
  omega

/-- The index after an index stays in range (42_event_queue.md R151). -/
theorem advance_lt {c i : Nat} (hc : 0 < c) : advance c i < c := Nat.mod_lt _ hc

/-- The index after an index, by cases. -/
theorem advance_eq {c i : Nat} (hi : i < c) : advance c i = if i + 1 = c then 0 else i + 1 := by
  unfold advance
  split
  · rename_i h; simp [h]
  · exact Nat.mod_eq_of_lt (by omega)

/-- The number of queued entries, by cases (10_state.md R31). -/
theorem queueCount_eq (s : State) (hr : s.rd < s.capacity) (hw : s.wr < s.capacity) :
    queueCount s = if s.rd ≤ s.wr then s.wr - s.rd else s.wr + s.capacity - s.rd := by
  unfold queueCount
  split
  · rw [show s.wr + s.capacity - s.rd = (s.wr - s.rd) + s.capacity by omega, Nat.add_mod_right]
    exact Nat.mod_eq_of_lt (by omega)
  · exact Nat.mod_eq_of_lt (by omega)

/-- "empty iff read_index == write_index" as a count (42_event_queue.md R151). -/
theorem queueCount_eq_zero_iff (s : State) (hr : s.rd < s.capacity) (hw : s.wr < s.capacity) :
    queueCount s = 0 ↔ s.rd = s.wr := by
  rw [queueCount_eq s hr hw]
  split <;> omega

theorem queueCount_lt (s : State) (hc : 0 < s.capacity) : queueCount s < s.capacity := Nat.mod_lt _ hc

end Sys2Proof.Machine
end

