-- ==== Sys2Proof/Laws/Memory.lean ====
section
/-! SUPPORT. The laws of the sparse memories: a read after a write, and that every write keeps the canonical form. -/

namespace Sys2Proof.Machine

variable {α : Type}

@[simp] theorem Memory.read_nil (a : Nat) : Memory.read ([] : List (Nat × α)) a = none := rfl

theorem Memory.read_cons (k : Nat) (v : α) (m : List (Nat × α)) (a : Nat) :
    Memory.read ((k, v) :: m) a = if k = a then some v else Memory.read m a := rfl

/-- A read after a write to the same place gives the value written. -/
@[simp] theorem Memory.read_write_same (m : List (Nat × α)) (a : Nat) (v : α) :
    Memory.read (Memory.write m a v) a = some v := by
  induction m with
  | nil => simp [Memory.write, Memory.read]
  | cons c rest ih =>
    obtain ⟨k, w⟩ := c
    unfold Memory.write
    split
    · simp [Memory.read]
    · split
      · simp [Memory.read]
      · have : k ≠ a := by omega
        simp [Memory.read, this, ih]

/-- A write leaves every other place alone. -/
theorem Memory.read_write_other (m : List (Nat × α)) (a b : Nat) (v : α) (h : b ≠ a) :
    Memory.read (Memory.write m a v) b = Memory.read m b := by
  have hab : ¬ a = b := fun e => h e.symm
  induction m with
  | nil => simp [Memory.write, Memory.read, hab]
  | cons c rest ih =>
    obtain ⟨k, w⟩ := c
    unfold Memory.write
    split
    · simp [Memory.read, hab]
    · split
      · rename_i h1
        subst h1
        simp [Memory.read, hab]
      · simp [Memory.read, ih]

/-- Both cases of a read after a write. -/
theorem Memory.read_write (m : List (Nat × α)) (a b : Nat) (v : α) :
    Memory.read (Memory.write m a v) b = if b = a then some v else Memory.read m b := by
  by_cases h : b = a
  · subst h; simp
  · simp [h, Memory.read_write_other m a b v h]

/-! ### The canonical form -/

theorem Memory.wf_tail {c : Nat × α} {m : List (Nat × α)} (h : Memory.wf (c :: m) = true) : Memory.wf m = true := by
  cases m with
  | nil => rfl
  | cons b rest => simp [Memory.wf] at h; exact h.2

/-- The places a write can bring to the front: its own, or the old front. -/
theorem Memory.write_head_ge (m : List (Nat × α)) (a k : Nat) (v : α) (ha : k < a)
    (hm : ∀ c ∈ m.head?, k < c.1) : ∀ c ∈ (Memory.write m a v).head?, k < c.1 := by
  cases m with
  | nil => simpa [Memory.write] using ha
  | cons c rest =>
    obtain ⟨k', w⟩ := c
    unfold Memory.write
    split
    · simpa using ha
    · split
      · simpa using ha
      · simpa using hm

theorem Memory.wf_cons {c : Nat × α} {m : List (Nat × α)} (hm : Memory.wf m = true)
    (hc : ∀ d ∈ m.head?, c.1 < d.1) : Memory.wf (c :: m) = true := by
  cases m with
  | nil => rfl
  | cons b rest => simp [Memory.wf, hm]; simpa using hc

theorem Memory.wf_head_lt {c : Nat × α} {m : List (Nat × α)} (h : Memory.wf (c :: m) = true) :
    ∀ d ∈ m.head?, c.1 < d.1 := by
  cases m with
  | nil => simp
  | cons b rest => simp [Memory.wf] at h; simpa using h.1

/-- A write keeps the places strictly rising. -/
theorem Memory.wf_write (m : List (Nat × α)) (a : Nat) (v : α) (h : Memory.wf m = true) :
    Memory.wf (Memory.write m a v) = true := by
  induction m with
  | nil => rfl
  | cons c rest ih =>
    obtain ⟨k, w⟩ := c
    unfold Memory.write
    split
    · rename_i hlt
      exact Memory.wf_cons h (by simpa using hlt)
    · split
      · rename_i hlt heq
        subst heq
        exact Memory.wf_cons (Memory.wf_tail h) (by simpa using Memory.wf_head_lt h)
      · rename_i hlt hne
        refine Memory.wf_cons (ih (Memory.wf_tail h)) ?_
        exact Memory.write_head_ge rest a k v (by omega) (Memory.wf_head_lt h)

/-- Every place of a written memory is an old one or the one written. -/
theorem Memory.mem_write (m : List (Nat × α)) (a : Nat) (v : α) :
    ∀ c ∈ Memory.write m a v, c ∈ m ∨ c = (a, v) := by
  induction m with
  | nil => intro c hc; simp [Memory.write] at hc; exact .inr hc
  | cons d rest ih =>
    obtain ⟨k, w⟩ := d
    intro c hc
    unfold Memory.write at hc
    split at hc
    · simp at hc ⊢; tauto
    · split at hc
      · simp at hc ⊢; tauto
      · rcases List.mem_cons.1 hc with h | h
        · exact .inl (by simp [h])
        · rcases ih c h with h | h
          · exact .inl (by simp [h])
          · exact .inr h

/-- A write inside the range keeps every place inside the range. -/
theorem Memory.write_lt (m : List (Nat × α)) (a n : Nat) (v : α) (ha : a < n) (hm : ∀ c ∈ m, c.1 < n) :
    ∀ c ∈ Memory.write m a v, c.1 < n := by
  intro c hc
  rcases Memory.mem_write m a v c hc with h | h
  · exact hm c h
  · subst h; exact ha

/-! ### Runs of consecutive places -/

@[simp] theorem Memory.writes_nil (m : List (Nat × α)) (a : Nat) : Memory.writes m a [] = m := rfl

@[simp] theorem Memory.writes_cons (m : List (Nat × α)) (a : Nat) (v : α) (vs : List α) :
    Memory.writes m a (v :: vs) = Memory.writes (Memory.write m a v) (a + 1) vs := rfl

/-- What a place reads as after a run of writes. -/
theorem Memory.read_writes (vs : List α) (m : List (Nat × α)) (a b : Nat) :
    Memory.read (Memory.writes m a vs) b =
      if a ≤ b ∧ b < a + vs.length then vs[b - a]? else Memory.read m b := by
  induction vs generalizing m a with
  | nil => simp
  | cons v vs ih =>
    rw [Memory.writes_cons, ih, Memory.read_write]
    by_cases hb : b = a
    · subst hb; simp
    · by_cases h : a ≤ b ∧ b < a + (v :: vs).length
      · have h1 : a + 1 ≤ b ∧ b < a + 1 + vs.length := by simp at h; omega
        obtain ⟨d, hd⟩ : ∃ d, b - a = d + 1 := ⟨b - a - 1, by omega⟩
        have hd' : b - (a + 1) = d := by omega
        simp only [h, h1, and_self, if_true, hd, hd', List.getElem?_cons_succ]
      · have h1 : ¬ (a + 1 ≤ b ∧ b < a + 1 + vs.length) := by simp at h ⊢; omega
        rw [if_neg h, if_neg h1, if_neg hb]

theorem Memory.wf_writes (vs : List α) (m : List (Nat × α)) (a : Nat) (h : Memory.wf m = true) :
    Memory.wf (Memory.writes m a vs) = true := by
  induction vs generalizing m a with
  | nil => exact h
  | cons v vs ih => exact ih _ _ (Memory.wf_write m a v h)

theorem Memory.writes_lt (vs : List α) (m : List (Nat × α)) (a n : Nat) (ha : a + vs.length ≤ n)
    (hm : ∀ c ∈ m, c.1 < n) : ∀ c ∈ Memory.writes m a vs, c.1 < n := by
  induction vs generalizing m a with
  | nil => exact hm
  | cons v vs ih =>
    simp at ha
    exact ih _ _ (by omega) (Memory.write_lt m a n v (by omega) hm)

@[simp] theorem Memory.block_zero (m : List (Nat × α)) (a : Nat) : Memory.block m a 0 = some [] := rfl

/-- A block is the list of what its places read as. -/
theorem Memory.block_eq_some_iff (n : Nat) (m : List (Nat × α)) (a : Nat) (vs : List α) :
    Memory.block m a n = some vs ↔ vs.length = n ∧ ∀ i, i < n → Memory.read m (a + i) = vs[i]? := by
  induction n generalizing a vs with
  | zero => simp
  | succ n ih =>
    unfold Memory.block
    constructor
    · intro h
      split at h
      · rename_i v ws hv hws
        obtain ⟨hl, hr⟩ := (ih (a + 1) ws).1 hws
        cases h
        refine ⟨by simp [hl], fun i hi => ?_⟩
        cases i with
        | zero => simpa using hv
        | succ i =>
          have := hr i (by omega)
          rw [show a + (i + 1) = a + 1 + i by omega]
          simpa using this
      · cases h
    · rintro ⟨hl, hr⟩
      cases vs with
      | nil => simp at hl
      | cons v ws =>
        have h0 : Memory.read m a = some v := by simpa using hr 0 (by omega)
        have h1 : Memory.block m (a + 1) n = some ws := by
          refine (ih (a + 1) ws).2 ⟨by simpa using hl, fun i hi => ?_⟩
          have := hr (i + 1) (by omega)
          rw [show a + (i + 1) = a + 1 + i by omega] at this
          simpa using this
        simp [h0, h1]

end Sys2Proof.Machine
end

