-- ==== Sys2Proof/Laws/State.lean ====
section
/-! SUPPORT. What each named update does to each field of State, one lemma a field, so that no proof unfolds a record
update. -/

namespace Sys2Proof.Machine

/-! ### lrvWrite -/

@[simp] theorem lrvWrite_lrv (i : Nat) (v : BitVec 7) (s : State) : (lrvWrite i v s).lrv = s.lrv.set i v := rfl
@[simp] theorem lrvWrite_sm (i : Nat) (v : BitVec 7) (s : State) : (lrvWrite i v s).sm = s.sm := rfl
@[simp] theorem lrvWrite_ls (i : Nat) (v : BitVec 7) (s : State) : (lrvWrite i v s).ls = s.ls := rfl
@[simp] theorem lrvWrite_mode (i : Nat) (v : BitVec 7) (s : State) : (lrvWrite i v s).mode = s.mode := rfl
@[simp] theorem lrvWrite_rd (i : Nat) (v : BitVec 7) (s : State) : (lrvWrite i v s).rd = s.rd := rfl
@[simp] theorem lrvWrite_wr (i : Nat) (v : BitVec 7) (s : State) : (lrvWrite i v s).wr = s.wr := rfl
@[simp] theorem lrvWrite_slots (i : Nat) (v : BitVec 7) (s : State) : (lrvWrite i v s).slots = s.slots := rfl
@[simp] theorem lrvWrite_tx (i : Nat) (v : BitVec 7) (s : State) : (lrvWrite i v s).tx = s.tx := rfl
@[simp] theorem lrvWrite_txn (i : Nat) (v : BitVec 7) (s : State) : (lrvWrite i v s).txn = s.txn := rfl
@[simp] theorem lrvWrite_pstat (i : Nat) (v : BitVec 7) (s : State) : (lrvWrite i v s).pstat = s.pstat := rfl
@[simp] theorem lrvWrite_tstat (i : Nat) (v : BitVec 7) (s : State) : (lrvWrite i v s).tstat = s.tstat := rfl
@[simp] theorem lrvWrite_epBusy (i : Nat) (v : BitVec 7) (s : State) : (lrvWrite i v s).epBusy = s.epBusy := rfl
@[simp] theorem lrvWrite_txlog (i : Nat) (v : BitVec 7) (s : State) : (lrvWrite i v s).txlog = s.txlog := rfl
@[simp] theorem lrvWrite_producer (i : Nat) (v : BitVec 7) (s : State) : (lrvWrite i v s).producer = s.producer := rfl
@[simp] theorem lrvWrite_consumer (i : Nat) (v : BitVec 7) (s : State) : (lrvWrite i v s).consumer = s.consumer := rfl
@[simp] theorem lrvWrite_capacity (i : Nat) (v : BitVec 7) (s : State) : (lrvWrite i v s).capacity = s.capacity := rfl
@[simp] theorem lrvWrite_enqAnswer (i : Nat) (v : BitVec 7) (s : State) : (lrvWrite i v s).enqAnswer = s.enqAnswer := rfl
@[simp] theorem lrvWrite_deqAnswer (i : Nat) (v : BitVec 7) (s : State) : (lrvWrite i v s).deqAnswer = s.deqAnswer := rfl
@[simp] theorem lrvWrite_events (i : Nat) (v : BitVec 7) (s : State) : (lrvWrite i v s).events = s.events := rfl

/-! ### slotWrite -/

@[simp] theorem slotWrite_lrv (i : Nat) (e : Entry) (s : State) : (slotWrite i e s).lrv = s.lrv := rfl
@[simp] theorem slotWrite_sm (i : Nat) (e : Entry) (s : State) : (slotWrite i e s).sm = s.sm := rfl
@[simp] theorem slotWrite_ls (i : Nat) (e : Entry) (s : State) : (slotWrite i e s).ls = s.ls := rfl
@[simp] theorem slotWrite_mode (i : Nat) (e : Entry) (s : State) : (slotWrite i e s).mode = s.mode := rfl
@[simp] theorem slotWrite_rd (i : Nat) (e : Entry) (s : State) : (slotWrite i e s).rd = s.rd := rfl
@[simp] theorem slotWrite_wr (i : Nat) (e : Entry) (s : State) : (slotWrite i e s).wr = s.wr := rfl
@[simp] theorem slotWrite_slots (i : Nat) (e : Entry) (s : State) : (slotWrite i e s).slots = Memory.write s.slots i e := rfl
@[simp] theorem slotWrite_tx (i : Nat) (e : Entry) (s : State) : (slotWrite i e s).tx = s.tx := rfl
@[simp] theorem slotWrite_txn (i : Nat) (e : Entry) (s : State) : (slotWrite i e s).txn = s.txn := rfl
@[simp] theorem slotWrite_pstat (i : Nat) (e : Entry) (s : State) : (slotWrite i e s).pstat = s.pstat := rfl
@[simp] theorem slotWrite_tstat (i : Nat) (e : Entry) (s : State) : (slotWrite i e s).tstat = s.tstat := rfl
@[simp] theorem slotWrite_epBusy (i : Nat) (e : Entry) (s : State) : (slotWrite i e s).epBusy = s.epBusy := rfl
@[simp] theorem slotWrite_txlog (i : Nat) (e : Entry) (s : State) : (slotWrite i e s).txlog = s.txlog := rfl
@[simp] theorem slotWrite_producer (i : Nat) (e : Entry) (s : State) : (slotWrite i e s).producer = s.producer := rfl
@[simp] theorem slotWrite_consumer (i : Nat) (e : Entry) (s : State) : (slotWrite i e s).consumer = s.consumer := rfl
@[simp] theorem slotWrite_capacity (i : Nat) (e : Entry) (s : State) : (slotWrite i e s).capacity = s.capacity := rfl
@[simp] theorem slotWrite_enqAnswer (i : Nat) (e : Entry) (s : State) : (slotWrite i e s).enqAnswer = s.enqAnswer := rfl
@[simp] theorem slotWrite_deqAnswer (i : Nat) (e : Entry) (s : State) : (slotWrite i e s).deqAnswer = s.deqAnswer := rfl
@[simp] theorem slotWrite_events (i : Nat) (e : Entry) (s : State) : (slotWrite i e s).events = s.events := rfl

/-! ### txWrite -/

@[simp] theorem txWrite_lrv (off : Nat) (b : Byte) (s : State) : (txWrite off b s).lrv = s.lrv := rfl
@[simp] theorem txWrite_sm (off : Nat) (b : Byte) (s : State) : (txWrite off b s).sm = s.sm := rfl
@[simp] theorem txWrite_ls (off : Nat) (b : Byte) (s : State) : (txWrite off b s).ls = s.ls := rfl
@[simp] theorem txWrite_mode (off : Nat) (b : Byte) (s : State) : (txWrite off b s).mode = s.mode := rfl
@[simp] theorem txWrite_rd (off : Nat) (b : Byte) (s : State) : (txWrite off b s).rd = s.rd := rfl
@[simp] theorem txWrite_wr (off : Nat) (b : Byte) (s : State) : (txWrite off b s).wr = s.wr := rfl
@[simp] theorem txWrite_slots (off : Nat) (b : Byte) (s : State) : (txWrite off b s).slots = s.slots := rfl
@[simp] theorem txWrite_tx (off : Nat) (b : Byte) (s : State) : (txWrite off b s).tx = Memory.write s.tx off b := rfl
@[simp] theorem txWrite_txn (off : Nat) (b : Byte) (s : State) : (txWrite off b s).txn = s.txn := rfl
@[simp] theorem txWrite_pstat (off : Nat) (b : Byte) (s : State) : (txWrite off b s).pstat = s.pstat := rfl
@[simp] theorem txWrite_tstat (off : Nat) (b : Byte) (s : State) : (txWrite off b s).tstat = s.tstat := rfl
@[simp] theorem txWrite_epBusy (off : Nat) (b : Byte) (s : State) : (txWrite off b s).epBusy = s.epBusy := rfl
@[simp] theorem txWrite_txlog (off : Nat) (b : Byte) (s : State) : (txWrite off b s).txlog = s.txlog := rfl
@[simp] theorem txWrite_producer (off : Nat) (b : Byte) (s : State) : (txWrite off b s).producer = s.producer := rfl
@[simp] theorem txWrite_consumer (off : Nat) (b : Byte) (s : State) : (txWrite off b s).consumer = s.consumer := rfl
@[simp] theorem txWrite_capacity (off : Nat) (b : Byte) (s : State) : (txWrite off b s).capacity = s.capacity := rfl
@[simp] theorem txWrite_enqAnswer (off : Nat) (b : Byte) (s : State) : (txWrite off b s).enqAnswer = s.enqAnswer := rfl
@[simp] theorem txWrite_deqAnswer (off : Nat) (b : Byte) (s : State) : (txWrite off b s).deqAnswer = s.deqAnswer := rfl
@[simp] theorem txWrite_events (off : Nat) (b : Byte) (s : State) : (txWrite off b s).events = s.events := rfl

/-! ### answerEnq -/

@[simp] theorem answerEnq_lrv (ok : Bool) (s : State) : (answerEnq ok s).lrv = s.lrv := rfl
@[simp] theorem answerEnq_sm (ok : Bool) (s : State) : (answerEnq ok s).sm = s.sm := rfl
@[simp] theorem answerEnq_ls (ok : Bool) (s : State) : (answerEnq ok s).ls = s.ls := rfl
@[simp] theorem answerEnq_mode (ok : Bool) (s : State) : (answerEnq ok s).mode = s.mode := rfl
@[simp] theorem answerEnq_rd (ok : Bool) (s : State) : (answerEnq ok s).rd = s.rd := rfl
@[simp] theorem answerEnq_wr (ok : Bool) (s : State) : (answerEnq ok s).wr = s.wr := rfl
@[simp] theorem answerEnq_slots (ok : Bool) (s : State) : (answerEnq ok s).slots = s.slots := rfl
@[simp] theorem answerEnq_tx (ok : Bool) (s : State) : (answerEnq ok s).tx = s.tx := rfl
@[simp] theorem answerEnq_txn (ok : Bool) (s : State) : (answerEnq ok s).txn = s.txn := rfl
@[simp] theorem answerEnq_pstat (ok : Bool) (s : State) : (answerEnq ok s).pstat = s.pstat := rfl
@[simp] theorem answerEnq_tstat (ok : Bool) (s : State) : (answerEnq ok s).tstat = s.tstat := rfl
@[simp] theorem answerEnq_epBusy (ok : Bool) (s : State) : (answerEnq ok s).epBusy = s.epBusy := rfl
@[simp] theorem answerEnq_txlog (ok : Bool) (s : State) : (answerEnq ok s).txlog = s.txlog := rfl
@[simp] theorem answerEnq_producer (ok : Bool) (s : State) : (answerEnq ok s).producer = s.producer := rfl
@[simp] theorem answerEnq_consumer (ok : Bool) (s : State) : (answerEnq ok s).consumer = s.consumer := rfl
@[simp] theorem answerEnq_capacity (ok : Bool) (s : State) : (answerEnq ok s).capacity = s.capacity := rfl
@[simp] theorem answerEnq_enqAnswer (ok : Bool) (s : State) : (answerEnq ok s).enqAnswer = some (answerWord ok 0#24) := rfl
@[simp] theorem answerEnq_deqAnswer (ok : Bool) (s : State) : (answerEnq ok s).deqAnswer = s.deqAnswer := rfl
@[simp] theorem answerEnq_events (ok : Bool) (s : State) : (answerEnq ok s).events = s.events := rfl

/-! ### answerDeq -/

@[simp] theorem answerDeq_lrv (e : Option Entry) (s : State) : (answerDeq e s).lrv = s.lrv := by cases e <;> rfl
@[simp] theorem answerDeq_sm (e : Option Entry) (s : State) : (answerDeq e s).sm = s.sm := by cases e <;> rfl
@[simp] theorem answerDeq_ls (e : Option Entry) (s : State) : (answerDeq e s).ls = s.ls := by cases e <;> rfl
@[simp] theorem answerDeq_mode (e : Option Entry) (s : State) : (answerDeq e s).mode = s.mode := by cases e <;> rfl
@[simp] theorem answerDeq_rd (e : Option Entry) (s : State) : (answerDeq e s).rd = s.rd := by cases e <;> rfl
@[simp] theorem answerDeq_wr (e : Option Entry) (s : State) : (answerDeq e s).wr = s.wr := by cases e <;> rfl
@[simp] theorem answerDeq_slots (e : Option Entry) (s : State) : (answerDeq e s).slots = s.slots := by cases e <;> rfl
@[simp] theorem answerDeq_tx (e : Option Entry) (s : State) : (answerDeq e s).tx = s.tx := by cases e <;> rfl
@[simp] theorem answerDeq_txn (e : Option Entry) (s : State) : (answerDeq e s).txn = s.txn := by cases e <;> rfl
@[simp] theorem answerDeq_pstat (e : Option Entry) (s : State) : (answerDeq e s).pstat = s.pstat := by cases e <;> rfl
@[simp] theorem answerDeq_tstat (e : Option Entry) (s : State) : (answerDeq e s).tstat = s.tstat := by cases e <;> rfl
@[simp] theorem answerDeq_epBusy (e : Option Entry) (s : State) : (answerDeq e s).epBusy = s.epBusy := by cases e <;> rfl
@[simp] theorem answerDeq_txlog (e : Option Entry) (s : State) : (answerDeq e s).txlog = s.txlog := by cases e <;> rfl
@[simp] theorem answerDeq_producer (e : Option Entry) (s : State) : (answerDeq e s).producer = s.producer := by cases e <;> rfl
@[simp] theorem answerDeq_consumer (e : Option Entry) (s : State) : (answerDeq e s).consumer = s.consumer := by cases e <;> rfl
@[simp] theorem answerDeq_capacity (e : Option Entry) (s : State) : (answerDeq e s).capacity = s.capacity := by cases e <;> rfl
@[simp] theorem answerDeq_enqAnswer (e : Option Entry) (s : State) : (answerDeq e s).enqAnswer = s.enqAnswer := by cases e <;> rfl
@[simp] theorem answerDeq_some_deqAnswer (e : Entry) (s : State) :
    (answerDeq (some e) s).deqAnswer = some (answerWord true e.word) := rfl
@[simp] theorem answerDeq_none_deqAnswer (s : State) :
    (answerDeq none s).deqAnswer = some (answerWord false 0#24) := rfl
@[simp] theorem answerDeq_events (e : Option Entry) (s : State) : (answerDeq e s).events = s.events := by cases e <;> rfl

/-! ### eq2 -/

@[simp] theorem eq2_lrv (e : Entry) (nxt : Nat) (s : State) : (eq2 e nxt s).lrv = s.lrv := rfl
@[simp] theorem eq2_sm (e : Entry) (nxt : Nat) (s : State) : (eq2 e nxt s).sm = s.sm := rfl
@[simp] theorem eq2_ls (e : Entry) (nxt : Nat) (s : State) : (eq2 e nxt s).ls = s.ls := rfl
@[simp] theorem eq2_mode (e : Entry) (nxt : Nat) (s : State) : (eq2 e nxt s).mode = s.mode := rfl
@[simp] theorem eq2_rd (e : Entry) (nxt : Nat) (s : State) : (eq2 e nxt s).rd = s.rd := rfl
@[simp] theorem eq2_wr (e : Entry) (nxt : Nat) (s : State) : (eq2 e nxt s).wr = s.wr := rfl
@[simp] theorem eq2_slots (e : Entry) (nxt : Nat) (s : State) : (eq2 e nxt s).slots = Memory.write s.slots nxt e := rfl
@[simp] theorem eq2_tx (e : Entry) (nxt : Nat) (s : State) : (eq2 e nxt s).tx = s.tx := rfl
@[simp] theorem eq2_txn (e : Entry) (nxt : Nat) (s : State) : (eq2 e nxt s).txn = s.txn := rfl
@[simp] theorem eq2_pstat (e : Entry) (nxt : Nat) (s : State) : (eq2 e nxt s).pstat = s.pstat := rfl
@[simp] theorem eq2_tstat (e : Entry) (nxt : Nat) (s : State) : (eq2 e nxt s).tstat = s.tstat := rfl
@[simp] theorem eq2_epBusy (e : Entry) (nxt : Nat) (s : State) : (eq2 e nxt s).epBusy = s.epBusy := rfl
@[simp] theorem eq2_txlog (e : Entry) (nxt : Nat) (s : State) : (eq2 e nxt s).txlog = s.txlog := rfl
@[simp] theorem eq2_producer (e : Entry) (nxt : Nat) (s : State) : (eq2 e nxt s).producer = s.producer := rfl
@[simp] theorem eq2_consumer (e : Entry) (nxt : Nat) (s : State) : (eq2 e nxt s).consumer = s.consumer := rfl
@[simp] theorem eq2_capacity (e : Entry) (nxt : Nat) (s : State) : (eq2 e nxt s).capacity = s.capacity := rfl
@[simp] theorem eq2_enqAnswer (e : Entry) (nxt : Nat) (s : State) : (eq2 e nxt s).enqAnswer = s.enqAnswer := rfl
@[simp] theorem eq2_deqAnswer (e : Entry) (nxt : Nat) (s : State) : (eq2 e nxt s).deqAnswer = s.deqAnswer := rfl
@[simp] theorem eq2_events (e : Entry) (nxt : Nat) (s : State) : (eq2 e nxt s).events = s.events := rfl

/-! ### eq3 -/

@[simp] theorem eq3_lrv (nxt : Nat) (s : State) : (eq3 nxt s).lrv = s.lrv := rfl
@[simp] theorem eq3_sm (nxt : Nat) (s : State) : (eq3 nxt s).sm = s.sm := rfl
@[simp] theorem eq3_ls (nxt : Nat) (s : State) : (eq3 nxt s).ls = s.ls := rfl
@[simp] theorem eq3_mode (nxt : Nat) (s : State) : (eq3 nxt s).mode = s.mode := rfl
@[simp] theorem eq3_rd (nxt : Nat) (s : State) : (eq3 nxt s).rd = s.rd := rfl
@[simp] theorem eq3_wr (nxt : Nat) (s : State) : (eq3 nxt s).wr = nxt := rfl
@[simp] theorem eq3_slots (nxt : Nat) (s : State) : (eq3 nxt s).slots = s.slots := rfl
@[simp] theorem eq3_tx (nxt : Nat) (s : State) : (eq3 nxt s).tx = s.tx := rfl
@[simp] theorem eq3_txn (nxt : Nat) (s : State) : (eq3 nxt s).txn = s.txn := rfl
@[simp] theorem eq3_pstat (nxt : Nat) (s : State) : (eq3 nxt s).pstat = s.pstat := rfl
@[simp] theorem eq3_tstat (nxt : Nat) (s : State) : (eq3 nxt s).tstat = s.tstat := rfl
@[simp] theorem eq3_epBusy (nxt : Nat) (s : State) : (eq3 nxt s).epBusy = s.epBusy := rfl
@[simp] theorem eq3_txlog (nxt : Nat) (s : State) : (eq3 nxt s).txlog = s.txlog := rfl
@[simp] theorem eq3_producer (nxt : Nat) (s : State) : (eq3 nxt s).producer = s.producer := rfl
@[simp] theorem eq3_consumer (nxt : Nat) (s : State) : (eq3 nxt s).consumer = s.consumer := rfl
@[simp] theorem eq3_capacity (nxt : Nat) (s : State) : (eq3 nxt s).capacity = s.capacity := rfl
@[simp] theorem eq3_enqAnswer (nxt : Nat) (s : State) : (eq3 nxt s).enqAnswer = some (answerWord true 0#24) := rfl
@[simp] theorem eq3_deqAnswer (nxt : Nat) (s : State) : (eq3 nxt s).deqAnswer = s.deqAnswer := rfl
@[simp] theorem eq3_events (nxt : Nat) (s : State) : (eq3 nxt s).events = s.events := rfl

/-! ### dq2 -/

@[simp] theorem dq2_lrv (s : State) : (dq2 s).lrv = s.lrv := rfl
@[simp] theorem dq2_sm (s : State) : (dq2 s).sm = s.sm := rfl
@[simp] theorem dq2_ls (s : State) : (dq2 s).ls = s.ls := rfl
@[simp] theorem dq2_mode (s : State) : (dq2 s).mode = s.mode := rfl
@[simp] theorem dq2_rd (s : State) : (dq2 s).rd = advance s.capacity s.rd := rfl
@[simp] theorem dq2_wr (s : State) : (dq2 s).wr = s.wr := rfl
@[simp] theorem dq2_slots (s : State) : (dq2 s).slots = s.slots := rfl
@[simp] theorem dq2_tx (s : State) : (dq2 s).tx = s.tx := rfl
@[simp] theorem dq2_txn (s : State) : (dq2 s).txn = s.txn := rfl
@[simp] theorem dq2_pstat (s : State) : (dq2 s).pstat = s.pstat := rfl
@[simp] theorem dq2_tstat (s : State) : (dq2 s).tstat = s.tstat := rfl
@[simp] theorem dq2_epBusy (s : State) : (dq2 s).epBusy = s.epBusy := rfl
@[simp] theorem dq2_txlog (s : State) : (dq2 s).txlog = s.txlog := rfl
@[simp] theorem dq2_producer (s : State) : (dq2 s).producer = s.producer := rfl
@[simp] theorem dq2_consumer (s : State) : (dq2 s).consumer = s.consumer := rfl
@[simp] theorem dq2_capacity (s : State) : (dq2 s).capacity = s.capacity := rfl
@[simp] theorem dq2_enqAnswer (s : State) : (dq2 s).enqAnswer = s.enqAnswer := rfl
@[simp] theorem dq2_deqAnswer (s : State) : (dq2 s).deqAnswer = s.deqAnswer := rfl
@[simp] theorem dq2_events (s : State) : (dq2 s).events = s.events := rfl

/-! ### appendPacket -/

@[simp] theorem appendPacket_lrv (p : Packet) (s : State) : (appendPacket p s).lrv = s.lrv := rfl
@[simp] theorem appendPacket_sm (p : Packet) (s : State) : (appendPacket p s).sm = s.sm := rfl
@[simp] theorem appendPacket_ls (p : Packet) (s : State) : (appendPacket p s).ls = s.ls := rfl
@[simp] theorem appendPacket_mode (p : Packet) (s : State) : (appendPacket p s).mode = s.mode := rfl
@[simp] theorem appendPacket_rd (p : Packet) (s : State) : (appendPacket p s).rd = s.rd := rfl
@[simp] theorem appendPacket_wr (p : Packet) (s : State) : (appendPacket p s).wr = s.wr := rfl
@[simp] theorem appendPacket_slots (p : Packet) (s : State) : (appendPacket p s).slots = s.slots := rfl
@[simp] theorem appendPacket_tx (p : Packet) (s : State) : (appendPacket p s).tx = Memory.writes s.tx s.txn (packetBytes p) := rfl
@[simp] theorem appendPacket_txn (p : Packet) (s : State) : (appendPacket p s).txn = s.txn + Config.packetBytes := rfl
@[simp] theorem appendPacket_pstat (p : Packet) (s : State) : (appendPacket p s).pstat = s.pstat := rfl
@[simp] theorem appendPacket_tstat (p : Packet) (s : State) : (appendPacket p s).tstat = s.tstat := rfl
@[simp] theorem appendPacket_epBusy (p : Packet) (s : State) : (appendPacket p s).epBusy = s.epBusy := rfl
@[simp] theorem appendPacket_txlog (p : Packet) (s : State) : (appendPacket p s).txlog = s.txlog := rfl
@[simp] theorem appendPacket_producer (p : Packet) (s : State) : (appendPacket p s).producer = s.producer := rfl
@[simp] theorem appendPacket_consumer (p : Packet) (s : State) : (appendPacket p s).consumer = s.consumer := rfl
@[simp] theorem appendPacket_capacity (p : Packet) (s : State) : (appendPacket p s).capacity = s.capacity := rfl
@[simp] theorem appendPacket_enqAnswer (p : Packet) (s : State) : (appendPacket p s).enqAnswer = s.enqAnswer := rfl
@[simp] theorem appendPacket_deqAnswer (p : Packet) (s : State) : (appendPacket p s).deqAnswer = s.deqAnswer := rfl
@[simp] theorem appendPacket_events (p : Packet) (s : State) : (appendPacket p s).events = s.events := rfl

/-! ### setStatus -/

@[simp] theorem setStatus_lrv (p : Port) (c : Status) (s : State) : (setStatus p c s).lrv = s.lrv := by cases p <;> rfl
@[simp] theorem setStatus_sm (p : Port) (c : Status) (s : State) : (setStatus p c s).sm = s.sm := by cases p <;> rfl
@[simp] theorem setStatus_ls (p : Port) (c : Status) (s : State) : (setStatus p c s).ls = s.ls := by cases p <;> rfl
@[simp] theorem setStatus_mode (p : Port) (c : Status) (s : State) : (setStatus p c s).mode = s.mode := by cases p <;> rfl
@[simp] theorem setStatus_rd (p : Port) (c : Status) (s : State) : (setStatus p c s).rd = s.rd := by cases p <;> rfl
@[simp] theorem setStatus_wr (p : Port) (c : Status) (s : State) : (setStatus p c s).wr = s.wr := by cases p <;> rfl
@[simp] theorem setStatus_slots (p : Port) (c : Status) (s : State) : (setStatus p c s).slots = s.slots := by cases p <;> rfl
@[simp] theorem setStatus_tx (p : Port) (c : Status) (s : State) : (setStatus p c s).tx = s.tx := by cases p <;> rfl
@[simp] theorem setStatus_txn (p : Port) (c : Status) (s : State) : (setStatus p c s).txn = s.txn := by cases p <;> rfl
@[simp] theorem setStatus_P_pstat (c : Status) (s : State) : (setStatus .P c s).pstat = c := rfl
@[simp] theorem setStatus_T_pstat (c : Status) (s : State) : (setStatus .T c s).pstat = s.pstat := rfl
@[simp] theorem setStatus_P_tstat (c : Status) (s : State) : (setStatus .P c s).tstat = s.tstat := rfl
@[simp] theorem setStatus_T_tstat (c : Status) (s : State) : (setStatus .T c s).tstat = c := rfl
@[simp] theorem setStatus_epBusy (p : Port) (c : Status) (s : State) : (setStatus p c s).epBusy = s.epBusy := by cases p <;> rfl
@[simp] theorem setStatus_txlog (p : Port) (c : Status) (s : State) : (setStatus p c s).txlog = s.txlog := by cases p <;> rfl
@[simp] theorem setStatus_producer (p : Port) (c : Status) (s : State) : (setStatus p c s).producer = s.producer := by cases p <;> rfl
@[simp] theorem setStatus_consumer (p : Port) (c : Status) (s : State) : (setStatus p c s).consumer = s.consumer := by cases p <;> rfl
@[simp] theorem setStatus_capacity (p : Port) (c : Status) (s : State) : (setStatus p c s).capacity = s.capacity := by cases p <;> rfl
@[simp] theorem setStatus_enqAnswer (p : Port) (c : Status) (s : State) : (setStatus p c s).enqAnswer = s.enqAnswer := by cases p <;> rfl
@[simp] theorem setStatus_deqAnswer (p : Port) (c : Status) (s : State) : (setStatus p c s).deqAnswer = s.deqAnswer := by cases p <;> rfl
@[simp] theorem setStatus_events (p : Port) (c : Status) (s : State) : (setStatus p c s).events = s.events := by cases p <;> rfl

/-! ### The state a table word is placed in -/

@[simp] theorem withFetchWord_lrv (s : State) (nbits w : Nat) : (s.withFetchWord nbits w).lrv = s.lrv := rfl
@[simp] theorem withFetchWord_sm (s : State) (nbits w : Nat) : (s.withFetchWord nbits w).sm = s.sm := rfl
@[simp] theorem withFetchWord_ls (s : State) (nbits w : Nat) : (s.withFetchWord nbits w).ls = s.ls := rfl
@[simp] theorem withFetchWord_mode (s : State) (nbits w : Nat) : (s.withFetchWord nbits w).mode = s.mode := rfl
@[simp] theorem withFetchWord_rd (s : State) (nbits w : Nat) : (s.withFetchWord nbits w).rd = s.rd := rfl
@[simp] theorem withFetchWord_wr (s : State) (nbits w : Nat) : (s.withFetchWord nbits w).wr = s.wr := rfl
@[simp] theorem withFetchWord_slots (s : State) (nbits w : Nat) : (s.withFetchWord nbits w).slots = s.slots := rfl
@[simp] theorem withFetchWord_tx (s : State) (nbits w : Nat) : (s.withFetchWord nbits w).tx = s.tx := rfl
@[simp] theorem withFetchWord_txn (s : State) (nbits w : Nat) : (s.withFetchWord nbits w).txn = s.txn := rfl
@[simp] theorem withFetchWord_pstat (s : State) (nbits w : Nat) : (s.withFetchWord nbits w).pstat = s.pstat := rfl
@[simp] theorem withFetchWord_tstat (s : State) (nbits w : Nat) : (s.withFetchWord nbits w).tstat = s.tstat := rfl
@[simp] theorem withFetchWord_epBusy (s : State) (nbits w : Nat) : (s.withFetchWord nbits w).epBusy = s.epBusy := rfl
@[simp] theorem withFetchWord_txlog (s : State) (nbits w : Nat) : (s.withFetchWord nbits w).txlog = s.txlog := rfl
@[simp] theorem withFetchWord_producer (s : State) (nbits w : Nat) : (s.withFetchWord nbits w).producer = .idle := rfl
@[simp] theorem withFetchWord_consumer (s : State) (nbits w : Nat) : (s.withFetchWord nbits w).consumer = .idle := rfl
@[simp] theorem withFetchWord_capacity (s : State) (nbits w : Nat) : (s.withFetchWord nbits w).capacity = s.capacity := rfl
@[simp] theorem withFetchWord_enqAnswer (s : State) (nbits w : Nat) : (s.withFetchWord nbits w).enqAnswer = s.enqAnswer := rfl
@[simp] theorem withFetchWord_deqAnswer (s : State) (nbits w : Nat) : (s.withFetchWord nbits w).deqAnswer = s.deqAnswer := rfl
@[simp] theorem withFetchWord_events (s : State) (nbits w : Nat) : (s.withFetchWord nbits w).events = wordEvent (BitVec.ofNat 32 (w % 2 ^ nbits)) :: s.events := rfl

/-! ### The state after reset (spec/10_state.md R39) -/

@[simp] theorem resetWith_lrv (n c : Nat) : (State.resetWith n c).lrv = List.replicate n 0#7 := rfl
@[simp] theorem resetWith_sm (n c : Nat) : (State.resetWith n c).sm = Config.pbCenter := rfl
@[simp] theorem resetWith_ls (n c : Nat) : (State.resetWith n c).ls = none := rfl
@[simp] theorem resetWith_mode (n c : Nat) : (State.resetWith n c).mode = .disabled := rfl
@[simp] theorem resetWith_rd (n c : Nat) : (State.resetWith n c).rd = 0 := rfl
@[simp] theorem resetWith_wr (n c : Nat) : (State.resetWith n c).wr = 0 := rfl
@[simp] theorem resetWith_slots (n c : Nat) : (State.resetWith n c).slots = [] := rfl
@[simp] theorem resetWith_tx (n c : Nat) : (State.resetWith n c).tx = [] := rfl
@[simp] theorem resetWith_txn (n c : Nat) : (State.resetWith n c).txn = 0 := rfl
@[simp] theorem resetWith_pstat (n c : Nat) : (State.resetWith n c).pstat = .noEvent := rfl
@[simp] theorem resetWith_tstat (n c : Nat) : (State.resetWith n c).tstat = .noEvent := rfl
@[simp] theorem resetWith_epBusy (n c : Nat) : (State.resetWith n c).epBusy = false := rfl
@[simp] theorem resetWith_txlog (n c : Nat) : (State.resetWith n c).txlog = [] := rfl
@[simp] theorem resetWith_producer (n c : Nat) : (State.resetWith n c).producer = .idle := rfl
@[simp] theorem resetWith_consumer (n c : Nat) : (State.resetWith n c).consumer = .idle := rfl
@[simp] theorem resetWith_capacity (n c : Nat) : (State.resetWith n c).capacity = c := rfl
@[simp] theorem resetWith_enqAnswer (n c : Nat) : (State.resetWith n c).enqAnswer = none := rfl
@[simp] theorem resetWith_deqAnswer (n c : Nat) : (State.resetWith n c).deqAnswer = none := rfl
@[simp] theorem resetWith_events (n c : Nat) : (State.resetWith n c).events = [] := rfl

end Sys2Proof.Machine
end

