-- ==== Sys2Proof/Laws/Ops.lean ====
section
/-! SUPPORT. One lemma for each shared operation that says once everything it can do; the provers cite these instead of
unfolding the operations. -/

namespace Sys2Proof.Machine

/-! ### andThen -/

@[simp] theorem andThen_next {α β : Type} (a : α) (f : α → Host.Outcome β Fault Refusal) :
    andThen (.next a) f = f a := rfl
@[simp] theorem andThen_fault {α β : Type} (r : Fault) (f : α → Host.Outcome β Fault Refusal) :
    andThen (.fault r : Host.Outcome α Fault Refusal) f = .fault r := rfl
@[simp] theorem andThen_refused {α β : Type} (r : Refusal) (f : α → Host.Outcome β Fault Refusal) :
    andThen (.refused r : Host.Outcome α Fault Refusal) f = .refused r := rfl

/-- A composed outcome that goes on went on in both parts. -/
theorem andThen_eq_next {α β : Type} {o : Host.Outcome α Fault Refusal}
    {f : α → Host.Outcome β Fault Refusal} {b : β} :
    andThen o f = .next b ↔ ∃ a, o = .next a ∧ f a = .next b := by
  cases o <;> simp [andThen]

theorem andThen_assoc {α β γ : Type} (o : Host.Outcome α Fault Refusal)
    (f : α → Host.Outcome β Fault Refusal) (g : β → Host.Outcome γ Fault Refusal) :
    andThen (andThen o f) g = andThen o (fun a => andThen (f a) g) := by
  cases o <;> rfl

/-! ### ENQ -/

/-- ENQ of a full queue: the answer and nothing else (42_event_queue.md R152, R153). -/
theorem enqueue_full {e : Entry} {s : State} (h : QueueFull s) :
    enqueue e s = ({ s with enqAnswer := some (answerWord false 0#24) }, false) := by
  simp only [enqueue, if_pos h]; rfl

/-- ENQ of a queue with room: the slot, the index, the answer (42_event_queue.md R152). -/
theorem enqueue_success {e : Entry} {s : State} (h : ¬ QueueFull s) :
    enqueue e s =
      ({ s with
          slots := Memory.write s.slots (advance s.capacity s.wr) e
          wr := advance s.capacity s.wr
          enqAnswer := some (answerWord true 0#24) }, true) := by
  simp only [enqueue, if_neg h]; rfl

/-- Everything ENQ can do. -/
theorem enqueue_cases (e : Entry) (s : State) :
    (QueueFull s ∧ enqueue e s = ({ s with enqAnswer := some (answerWord false 0#24) }, false)) ∨
    (¬ QueueFull s ∧ enqueue e s =
      ({ s with
          slots := Memory.write s.slots (advance s.capacity s.wr) e
          wr := advance s.capacity s.wr
          enqAnswer := some (answerWord true 0#24) }, true)) := by
  by_cases h : QueueFull s
  · exact .inl ⟨h, enqueue_full h⟩
  · exact .inr ⟨h, enqueue_success h⟩

/-! ### DEQ -/

/-- DEQ of an empty queue: the answer and nothing else (42_event_queue.md R155). -/
theorem dequeue_empty {s : State} (h : QueueEmpty s) :
    dequeue s = .next ({ s with deqAnswer := some (answerWord false 0#24) }, none) := by
  simp only [dequeue, if_pos h]; rfl

/-- DEQ of a queue with an entry: the index and the answer (42_event_queue.md R155). -/
theorem dequeue_success {e : Entry} {s : State} (h : ¬ QueueEmpty s)
    (he : slotRead s (advance s.capacity s.rd) = some e) :
    dequeue s =
      .next ({ s with
        rd := advance s.capacity s.rd
        deqAnswer := some (answerWord true e.word) }, some e) := by
  have : slotRead (dq2 s) (advance s.capacity s.rd) = some e := he
  simp only [dequeue, if_neg h, dq3, this]; rfl

/-- Everything DEQ can do when it goes on. -/
theorem dequeue_cases {s t : State} {o : Option Entry} (h : dequeue s = .next (t, o)) :
    (QueueEmpty s ∧ o = none ∧ t = { s with deqAnswer := some (answerWord false 0#24) }) ∨
    (¬ QueueEmpty s ∧ ∃ e, o = some e ∧ slotRead s (advance s.capacity s.rd) = some e ∧
      t = { s with rd := advance s.capacity s.rd, deqAnswer := some (answerWord true e.word) }) := by
  by_cases hq : QueueEmpty s
  · rw [dequeue_empty hq] at h
    cases h
    exact .inl ⟨hq, rfl, rfl⟩
  · refine .inr ⟨hq, ?_⟩
    cases he : slotRead s (advance s.capacity s.rd) with
    | none =>
      have : slotRead (dq2 s) (advance s.capacity s.rd) = none := he
      simp [dequeue, if_neg hq, dq3, this] at h
    | some e =>
      rw [dequeue_success hq he] at h
      cases h
      exact ⟨e, rfl, rfl, rfl⟩

/-! ### The packet write, the packet of an entry, SUBMIT -/

/-- The length of a packet (30_encoding.md R88). -/
@[simp] theorem packetBytes_length (p : Packet) : (packetBytes p).length = 4 := by cases p <;> rfl

/-- The packet write, in full (43_packetizer.md R172). -/
theorem appendPacket_eq (p : Packet) (s : State) :
    appendPacket p s = { s with tx := Memory.writes s.tx s.txn (packetBytes p), txn := s.txn + 4 } := rfl

/-- What an offset reads as after a packet write. -/
theorem txRead_appendPacket (p : Packet) (s : State) (off : Nat) :
    txRead (appendPacket p s) off =
      if s.txn ≤ off ∧ off < s.txn + 4 then (packetBytes p)[off - s.txn]? else txRead s off := by
  simp only [txRead, appendPacket_tx, Memory.read_writes, packetBytes_length]

/-- A packet record on its own, all cases. -/
theorem recordPacket_cases (p : Packet) (s : State) :
    (s.epBusy = true ∧ recordPacket p s = .refused .transmitBufferInFlight) ∨
    (s.epBusy = false ∧ s.txn + 4 ≤ 64 ∧ recordPacket p s = .next (appendPacket p s)) ∨
    (s.epBusy = false ∧ 64 < s.txn + 4 ∧ recordPacket p s = .refused .transmitBufferFull) := by
  unfold recordPacket Room Config.packetBytes Config.maxPacket
  cases hb : s.epBusy
  · by_cases h : s.txn + 4 ≤ 64
    · simp [h]
    · simp [h]; omega
  · simp

/-- A legal entry has a packet, and a packet the block produces (30_encoding.md R94). -/
theorem entryPacket_of_legal {n : Nat} {e : Entry} (hn : n ≤ 117) (h : Entry.legal n e = true) :
    ∃ p, entryPacket n e = some p ∧ p.wellFormed = true := by
  unfold entryPacket
  split
  · exact ⟨_, rfl, rfl⟩
  · rename_i ht
    simp [Entry.legal, ht] at h
    simp only [h.1, if_true]
    refine ⟨_, rfl, ?_⟩
    simp [Packet.wellFormed, Config.ccBase]
    omega

/-- SUBMIT of a written block (43_packetizer.md R176, R177). -/
theorem submit_eq {s : State} {bytes : List Byte} (h : txBlock s s.txn = some bytes) :
    submit s =
      .next { s with
        txlog := s.txlog ++ [{ bytes := bytes, len := s.txn, short := decide (s.txn ≠ 64) }]
        epBusy := true } := by
  simp only [submit, h]; rfl

/-- Everything SUBMIT can do when it goes on. -/
theorem submit_cases {s t : State} (h : submit s = .next t) :
    ∃ bytes, txBlock s s.txn = some bytes ∧ t =
      { s with
        txlog := s.txlog ++ [{ bytes := bytes, len := s.txn, short := decide (s.txn ≠ 64) }]
        epBusy := true } := by
  cases hb : txBlock s s.txn with
  | none => simp [submit, hb] at h
  | some bytes =>
    rw [submit_eq hb] at h
    cases h
    exact ⟨bytes, rfl, rfl⟩

/-- Everything FN4 can do when it goes on (43_packetizer.md R178). -/
theorem finishDrain_cases {s t : State} (h : finishDrain s = .next t) :
    (s.txn = 0 ∧ t = { s with tstat := .noTransfer }) ∨
    (s.txn ≠ 0 ∧ ∃ bytes, txBlock s s.txn = some bytes ∧ t =
      { s with
        txlog := s.txlog ++ [{ bytes := bytes, len := s.txn, short := decide (s.txn ≠ 64) }]
        epBusy := true
        tstat := .submitted }) := by
  by_cases h0 : s.txn = 0
  · simp only [finishDrain, if_pos h0] at h
    cases h
    exact .inl ⟨h0, rfl⟩
  · refine .inr ⟨h0, ?_⟩
    simp only [finishDrain, if_neg h0] at h
    obtain ⟨u, hu, ht⟩ := andThen_eq_next.1 h
    obtain ⟨bytes, hb, rfl⟩ := submit_cases hu
    cases ht
    exact ⟨bytes, hb, rfl⟩

/-! ### The end of a SAMPLE operation -/

@[simp] theorem settle_control_success (ch : BitVec 8) (cand : BitVec 7) (s : State) :
    settle (.control ch cand) true s = { s with lrv := s.lrv.set ch.toNat cand, pstat := .enqueued } := rfl
@[simp] theorem settle_pitchBend_success (v : BitVec 14) (s : State) :
    settle (.pitchBend v) true s = { s with ls := some v, pstat := .enqueued } := rfl
@[simp] theorem settle_full (r : Report) (s : State) : settle r false s = { s with pstat := .queueFull } := by
  cases r <;> rfl

@[simp] theorem finishSample_ended (s : State) : finishSample (s, none) = s := rfl

/-- A report meets a full queue: only the status and the bus's answer change (60_exceptions.md R203). -/
theorem finishSample_full {r : Report} {s : State} (h : QueueFull s) :
    finishSample (s, some r) =
      { s with pstat := .queueFull, enqAnswer := some (answerWord false 0#24) } := by
  simp only [finishSample, enqueue_full h, settle_full]

/-- A control report is enqueued (40_quantizer.md R115). -/
theorem finishSample_control {ch : BitVec 8} {cand : BitVec 7} {s : State} (h : ¬ QueueFull s) :
    finishSample (s, some (.control ch cand)) =
      { s with
        lrv := s.lrv.set ch.toNat cand
        slots := Memory.write s.slots (advance s.capacity s.wr) { tag := ch, value := cand.setWidth 14 }
        wr := advance s.capacity s.wr
        pstat := .enqueued
        enqAnswer := some (answerWord true 0#24) } := by
  simp only [finishSample, enqueue_success h, settle_control_success]; rfl

/-- A pitch-bend report is enqueued (41_pitchbend.md R135). -/
theorem finishSample_pitchBend {v : BitVec 14} {s : State} (h : ¬ QueueFull s) :
    finishSample (s, some (.pitchBend v)) =
      { s with
        ls := some v
        slots := Memory.write s.slots (advance s.capacity s.wr) { tag := Config.tagPb, value := v }
        wr := advance s.capacity s.wr
        pstat := .enqueued
        enqAnswer := some (answerWord true 0#24) } := by
  simp only [finishSample, enqueue_success h, settle_pitchBend_success]; rfl

end Sys2Proof.Machine
end

