-- ==== Sys2Proof/Laws/Filters.lean ====
section
/-! SUPPORT. Everything the two filters' own lines can do (spec/40_quantizer.md R114, 41_pitchbend.md R136), and the
rounds of the drain loop (43_packetizer.md R178). -/

namespace Sys2Proof.Machine

/-- The outcomes of SAMPLE_CC's own lines, one for each way through them. -/
theorem quantizerFront_cases (res : SamplerResult) (ch : BitVec 8) (raw : RawSample) (s : State) :
    ((s.channels ≤ ch.toNat ∨ res = .invalidChannel) ∧
      quantizerFront res ch raw s = ({ s with pstat := .invalidChannel }, none)) ∨
    (ch.toNat < s.channels ∧ res = .unavailable ∧
      quantizerFront res ch raw s = ({ s with pstat := .sampleTimeout }, none)) ∨
    (ch.toNat < s.channels ∧ res = .sample ∧ ¬ Change (lrvRead s ch.toNat) raw ∧
      quantizerFront res ch raw s = ({ s with pstat := .noEvent }, none)) ∨
    (ch.toNat < s.channels ∧ res = .sample ∧ Change (lrvRead s ch.toNat) raw ∧ s.mode = .disabled ∧
      quantizerFront res ch raw s =
        ({ s with lrv := s.lrv.set ch.toNat (candidate raw), pstat := .noEvent }, none)) ∨
    (ch.toNat < s.channels ∧ res = .sample ∧ Change (lrvRead s ch.toNat) raw ∧ s.mode = .enabled ∧
      quantizerFront res ch raw s = (s, some (.control ch (candidate raw)))) := by
  unfold quantizerFront
  by_cases h1 : s.channels ≤ ch.toNat ∨ res = .invalidChannel
  · exact .inl ⟨h1, by rw [if_pos h1]; rfl⟩
  · rw [if_neg h1]
    rw [not_or] at h1
    have hch : ch.toNat < s.channels := by omega
    by_cases h2 : res = .unavailable
    · exact .inr (.inl ⟨hch, h2, by rw [if_pos h2]; rfl⟩)
    · rw [if_neg h2]
      have hres : res = .sample := by cases res <;> simp_all
      by_cases h3 : Change (lrvRead s ch.toNat) raw
      · rw [if_neg (not_not.2 h3)]
        rcases (show s.mode = .disabled ∨ s.mode = .enabled by cases s.mode <;> simp) with hm | hm
        · exact .inr (.inr (.inr (.inl ⟨hch, hres, h3, hm, by split <;> [rfl; simp_all]⟩)))
        · exact .inr (.inr (.inr (.inr ⟨hch, hres, h3, hm, by split <;> [simp_all; rfl]⟩)))
      · exact .inr (.inr (.inl ⟨hch, hres, h3, by rw [if_pos h3]; rfl⟩))

/-- The outcomes of SAMPLE_PB's own lines, one for each way through them. -/
theorem pitchBendFront_cases (res : SamplerResult) (raw : RawSample) (s : State) :
    (res = .invalidChannel ∧ pitchBendFront res raw s = ({ s with pstat := .invalidChannel }, none)) ∨
    (res = .unavailable ∧ pitchBendFront res raw s = ({ s with pstat := .sampleTimeout }, none)) ∨
    (res = .sample ∧ s.mode = .enabled ∧ some (fixedup (smooth s.sm raw)) ≠ s.ls ∧
      pitchBendFront res raw s =
        ({ s with sm := smooth s.sm raw }, some (.pitchBend (fixedup (smooth s.sm raw))))) ∨
    (res = .sample ∧ (s.mode = .disabled ∨ some (fixedup (smooth s.sm raw)) = s.ls) ∧
      pitchBendFront res raw s = ({ s with sm := smooth s.sm raw, pstat := .noEvent }, none)) := by
  cases res with
  | invalidChannel => exact .inl ⟨rfl, rfl⟩
  | unavailable => exact .inr (.inl ⟨rfl, rfl⟩)
  | sample =>
    simp only [pitchBendFront, reduceCtorEq, if_false]
    by_cases h : s.mode = .enabled ∧ some (fixedup (smooth s.sm raw)) ≠ s.ls
    · exact .inr (.inr (.inl ⟨trivial, h.1, h.2, by rw [if_pos h]⟩))
    · refine .inr (.inr (.inr ⟨trivial, ?_, by rw [if_neg h]; rfl⟩))
      cases hm : s.mode with
      | disabled => exact .inl rfl
      | enabled =>
        rw [hm] at h
        by_cases hl : some (fixedup (smooth s.sm raw)) = s.ls
        · exact .inr hl
        · exact absurd ⟨rfl, hl⟩ h

/-! ### The drain loop -/

@[simp] theorem drain_zero (s : State) : drain 0 s = .next s := rfl

/-- No room: the loop ends (R175). -/
theorem drain_noRoom {k : Nat} {s : State} (h : ¬ Room s) : drain k s = .next s := by
  cases k with
  | zero => rfl
  | succ k => simp only [drain, if_neg h]

/-- An empty queue: the loop ends with the bus's answer (R175). -/
theorem drain_empty {k : Nat} {s : State} (hr : Room s) (hq : QueueEmpty s) :
    drain (k + 1) s = .next { s with deqAnswer := some (answerWord false 0#24) } := by
  simp only [drain, if_pos hr, dequeue_empty hq, andThen_next]

/-- One round: an entry leaves the queue and its packet enters the buffer (R172). -/
theorem drain_round {k : Nat} {s : State} {e : Entry} {p : Packet} (hr : Room s) (hq : ¬ QueueEmpty s)
    (he : slotRead s (advance s.capacity s.rd) = some e) (hp : entryPacket s.channels e = some p) :
    drain (k + 1) s =
      drain k (appendPacket p
        { s with rd := advance s.capacity s.rd, deqAnswer := some (answerWord true e.word) }) := by
  simp only [drain, if_pos hr, dequeue_success hq he, andThen_next, packetFor, hp]

end Sys2Proof.Machine
end

