-- ==== Sys2Proof/Laws/PerInstr.lean ====
section
/-! SUPPORT. Families of statements about every instruction as syntax, one lemma per constructor. -/

namespace Sys2Proof.Laws.EncodedFormat

open Sys2Proof

/-- The format an instruction's word has (spec/30_encoding.md R80, R84). -/
def formatOf : Instr → Format
  | .sampleCc _ _ _ => .cmd .P
  | .samplePb _ _ => .cmd .P
  | .frameNotify => .cmd .T
  | .enable => .cmd .T
  | .disable => .cmd .T
  | .enq _ _ => .qreq
  | .deq => .qreq
  | .pktCc _ _ => .pkt
  | .pktPb _ _ => .pkt

/-- The encoding of an instruction is read in the instruction's own format. -/
def Statement (i : Instr) : Prop := wordFormat (encode i) = formatOf i

theorem sampleCc (res : SamplerResult) (ch : BitVec 8) (raw : RawSample) : Statement (.sampleCc res ch raw) := by
  simp [Statement, wordFormat, encode, formatOf, opPort]

theorem samplePb (res : SamplerResult) (raw : RawSample) : Statement (.samplePb res raw) := by
  simp [Statement, wordFormat, encode, formatOf, opPort]

theorem frameNotify : Statement .frameNotify := by
  unfold Statement
  decide

theorem enable : Statement .enable := by
  unfold Statement
  decide

theorem disable : Statement .disable := by
  unfold Statement
  decide

/-- The two parts of a number that decide its format. -/
theorem wordFormat_of_parts {w : BitVec 32} {top : Nat} (h : w.toNat / 2 ^ 24 = top) (ht : top < 16) :
    cmdOp w = 0#4 ∧ (w.extractLsb' 24 8).toNat = top := by
  constructor
  · apply BitVec.eq_of_toNat_eq
    rw [cmdOp, extractLsb'_value]
    simp
    omega
  · rw [extractLsb'_value]
    omega

theorem enq (tag : BitVec 8) (value : BitVec 14) : Statement (.enq tag value) := by
  have h : (encode (.enq tag value)).toNat / 2 ^ 24 = 1 := by
    have h1 := tag.isLt; have h2 := value.isLt
    simp only [encode, BitVec.toNat_setWidth, qreqWord_value, BitVec.toNat_ofNat]
    omega
  obtain ⟨h1, h2⟩ := wordFormat_of_parts h (by decide)
  have h3 : (encode (.enq tag value)).extractLsb' 24 8 = 1#8 := BitVec.eq_of_toNat_eq (by rw [h2]; rfl)
  simp only [Statement, wordFormat, h1, h3]
  rfl

theorem deq : Statement .deq := by
  unfold Statement
  decide

theorem pktCc (c v : BitVec 7) : Statement (.pktCc c v) := by
  have h : (encode (.pktCc c v)).toNat / 2 ^ 24 = 11 := by
    have h1 := c.isLt; have h2 := v.isLt
    simp only [encode, pktWord_value, Config.cinCc, Config.statusCc, BitVec.toNat_ofNat]
    omega
  obtain ⟨h1, h2⟩ := wordFormat_of_parts h (by decide)
  have h3 : (encode (.pktCc c v)).extractLsb' 24 8 = 0x0B#8 := BitVec.eq_of_toNat_eq (by rw [h2]; rfl)
  simp only [Statement, wordFormat, h1, h3]
  rfl

theorem pktPb (l m : BitVec 7) : Statement (.pktPb l m) := by
  have h : (encode (.pktPb l m)).toNat / 2 ^ 24 = 14 := by
    have h1 := l.isLt; have h2 := m.isLt
    simp only [encode, pktWord_value, Config.cinPb, Config.statusPb, BitVec.toNat_ofNat]
    omega
  obtain ⟨h1, h2⟩ := wordFormat_of_parts h (by decide)
  have h3 : (encode (.pktPb l m)).extractLsb' 24 8 = 0x0E#8 := BitVec.eq_of_toNat_eq (by rw [h2]; rfl)
  simp only [Statement, wordFormat, h1, h3]
  rfl

end Sys2Proof.Laws.EncodedFormat
end

