-- ==== Sys2Proof/Laws/Step.lean ====
section
/-! SUPPORT. Everything a step can do, said once: the schedule's head, the delivery of a word, and each micro-step by
the phase it is taken in. -/

namespace Sys2Proof.Machine

/-! ### The schedule -/

theorem step_of_empty {s : State} (h : s.events = []) : step s = .next s := by
  unfold step; rw [h]

theorem step_of_cons {s : State} {e : Event} {rest : List Event} (h : s.events = e :: rest) :
    step s = deliver e { s with events := rest } := by
  unfold step; rw [h]

/-! ### The boundary of an operation -/

theorem portsIdle_iff {s : State} :
    portsIdle s = true ↔ s.producer = .idle ∧ s.consumer = .idle := by
  simp [portsIdle, portIdle]

/-- An operation that may begin runs. -/
theorem atBoundary_run {i : Instr} {run : State → Result} {s : State} (hp : portIdle (operationPort i) s = true)
    (hm : changesMode i = true → portsIdle s = true) : atBoundary i run s = run s := by
  unfold atBoundary
  rw [if_neg (by simp [hp])]
  refine if_neg ?_
  rintro ⟨h1, h2⟩
  rw [hm h1] at h2
  cases h2

/-- What the boundary can answer. -/
theorem atBoundary_cases (i : Instr) (run : State → Result) (s : State) :
    atBoundary i run s = .refused (.portOccupied (operationPort i)) ∨
    (changesMode i = true ∧ portsIdle s = false ∧ atBoundary i run s = .fault .stuckModeChange) ∨
    (portIdle (operationPort i) s = true ∧ (changesMode i = true → portsIdle s = true) ∧
      atBoundary i run s = run s) := by
  cases hp : portIdle (operationPort i) s with
  | false => exact .inl (by simp [atBoundary, hp])
  | true =>
    by_cases hm : changesMode i = true ∧ portsIdle s = false
    · exact .inr (.inl ⟨hm.1, hm.2, by simp [atBoundary, hp, hm]⟩)
    · refine .inr (.inr ⟨rfl, fun h => ?_, ?_⟩)
      · cases hi : portsIdle s with
        | true => rfl
        | false => exact absurd ⟨h, hi⟩ hm
      · unfold atBoundary
        rw [if_neg (by simp [hp]), if_neg hm]

/-- What the delivery of a command word can answer. -/
theorem deliverCommand_cases (p : Port) (w : CmdWord) (run : Instr → State → Result) (s : State) :
    deliverCommand p w run s = .refused (.portOccupied p) ∨
    (portIdle p s = true ∧ (∃ r, decodeCmd p w = .error r) ∧
      deliverCommand p w run s = .next (setStatus p .illegalOp s)) ∨
    (portIdle p s = true ∧ ∃ i, decodeCmd p w = .ok i ∧ deliverCommand p w run s = atBoundary i (run i) s) := by
  unfold deliverCommand
  cases hp : portIdle p s with
  | false => exact .inl rfl
  | true =>
    cases hd : decodeCmd p w with
    | error r => exact .inr (.inl ⟨rfl, ⟨r, rfl⟩, rfl⟩)
    | ok i => exact .inr (.inr ⟨rfl, i, rfl, rfl⟩)

/-! ### The producer's micro-steps -/

section
variable {s : State}

theorem producerStep_idle (h : s.producer = .idle) : producerStep s = .next s := by
  simp only [producerStep, h]

theorem producerStep_sampled {op : SampleOp} (h : s.producer = .sampled op) :
    producerStep s = .next (afterFront (sampleFront op s)) := by
  simp only [producerStep, h]

theorem producerStep_eq1_full {r : Report} (h : s.producer = .eq1 r) (hf : QueueFull s) :
    producerStep s =
      .next { s with enqAnswer := some (answerWord false 0#24), producer := .answered r false } := by
  simp only [producerStep, h, eq1Step, if_pos hf]; rfl

theorem producerStep_eq1_room {r : Report} (h : s.producer = .eq1 r) (hf : ¬ QueueFull s) :
    producerStep s = .next { s with producer := .eq2 r (advance s.capacity s.wr) } := by
  simp only [producerStep, h, eq1Step, if_neg hf]

theorem producerStep_eq2 {r : Report} {nxt : Nat} (h : s.producer = .eq2 r nxt) :
    producerStep s =
      .next { s with slots := Memory.write s.slots nxt (reportEntry r), producer := .eq3 r nxt } := by
  simp only [producerStep, h]; rfl

theorem producerStep_eq3 {r : Report} {nxt : Nat} (h : s.producer = .eq3 r nxt) :
    producerStep s =
      .next { s with wr := nxt, enqAnswer := some (answerWord true 0#24), producer := .answered r true } := by
  simp only [producerStep, h]; rfl

theorem producerStep_answered {r : Report} {ok : Bool} (h : s.producer = .answered r ok) :
    producerStep s = .next { settle r ok s with producer := .idle } := by
  simp only [producerStep, h]

/-! ### The consumer's micro-steps -/

theorem consumerStep_idle (h : s.consumer = .idle) : consumerStep s = .next s := by
  simp only [consumerStep, h]

theorem consumerStep_fn1_busy (h : s.consumer = .fn1) (hb : s.epBusy = true) :
    consumerStep s = .next { s with tstat := .endpointBusy, consumer := .idle } := by
  simp only [consumerStep, h, if_pos hb]; rfl

theorem consumerStep_fn1_idle (h : s.consumer = .fn1) (hb : s.epBusy = false) :
    consumerStep s = .next { s with consumer := .fn2 } := by
  simp [consumerStep, h, hb]

theorem consumerStep_fn2 (h : s.consumer = .fn2) : consumerStep s = .next { s with txn := 0, consumer := .fn3 } := by
  simp only [consumerStep, h]

theorem consumerStep_fn3_room (h : s.consumer = .fn3) (hr : Room s) :
    consumerStep s = .next { s with consumer := .dq1 } := by
  simp only [consumerStep, h, if_pos hr]

theorem consumerStep_fn3_noRoom (h : s.consumer = .fn3) (hr : ¬ Room s) :
    consumerStep s = .next { s with consumer := .fn4 } := by
  simp only [consumerStep, h, if_neg hr]

theorem consumerStep_dq1_empty (h : s.consumer = .dq1) (hq : QueueEmpty s) :
    consumerStep s = .next { s with deqAnswer := some (answerWord false 0#24), consumer := .fn4 } := by
  simp only [consumerStep, h, dq1Step, if_pos hq]; rfl

theorem consumerStep_dq1_entry (h : s.consumer = .dq1) (hq : ¬ QueueEmpty s) :
    consumerStep s = .next { s with consumer := .dq2 } := by
  simp only [consumerStep, h, dq1Step, if_neg hq]

theorem consumerStep_dq2 (h : s.consumer = .dq2) :
    consumerStep s =
      .next { s with rd := advance s.capacity s.rd, consumer := .dq3 (advance s.capacity s.rd) } := by
  simp only [consumerStep, h]; rfl

theorem consumerStep_dq3 {nxt : Nat} {e : Entry} (h : s.consumer = .dq3 nxt) (he : slotRead s nxt = some e) :
    consumerStep s = .next { s with deqAnswer := some (answerWord true e.word), consumer := .write e } := by
  simp only [consumerStep, h, dq3, he]; rfl

theorem consumerStep_write {e : Entry} {p : Packet} (h : s.consumer = .write e)
    (hp : entryPacket s.channels e = some p) :
    consumerStep s = .next { appendPacket p s with consumer := .fn3 } := by
  simp only [consumerStep, h, packetFor, hp, andThen_next]

theorem consumerStep_fn4 (h : s.consumer = .fn4) :
    consumerStep s = andThen (finishDrain s) (fun s' => .next { s' with consumer := .idle }) := by
  simp only [consumerStep, h]

end

/-! ### The memories keep their canonical form -/

/-- Every write of a slot or of a packet keeps both memories in canonical form and inside their ranges. -/
theorem slotWrite_canonical {s : State} {i : Nat} (e : Entry) (hw : Memory.wf s.slots = true)
    (hl : ∀ c ∈ s.slots, c.1 < s.capacity) (hi : i < s.capacity) :
    Memory.wf (slotWrite i e s).slots = true ∧ ∀ c ∈ (slotWrite i e s).slots, c.1 < (slotWrite i e s).capacity :=
  ⟨Memory.wf_write _ _ _ hw, Memory.write_lt _ _ _ _ hi hl⟩

theorem appendPacket_canonical {s : State} (p : Packet) (hw : Memory.wf s.tx = true)
    (hl : ∀ c ∈ s.tx, c.1 < 64) (hr : s.txn + 4 ≤ 64) :
    Memory.wf (appendPacket p s).tx = true ∧ ∀ c ∈ (appendPacket p s).tx, c.1 < 64 :=
  ⟨Memory.wf_writes _ _ _ hw, Memory.writes_lt _ _ _ _ (by simpa using hr) hl⟩

end Sys2Proof.Machine
end

