-- ==== Sys2Proof/Laws/Safety.lean ====
section
/-! SUPPORT. Small lemmas about the invariant: it does not depend on which outside moves are scheduled, and what each
phase's part says. -/

namespace Sys2Proof.Machine

/-- The invariant of a state is the invariant of the same state with other outside moves scheduled. -/
theorem Inv.withEvents {s : State} (h : Inv s) {es : List Event} (he : es.all Event.external = true) :
    Inv { s with events := es } :=
  ⟨h.params, h.indices, h.memories, h.txn, h.sm, h.queue, h.disabled, h.producer, h.consumer, h.transfers, h.inFlight,
    he⟩

/-- The schedule's tail is external when the schedule is. -/
theorem Inv.tail {s : State} (h : Inv s) {e : Event} {rest : List Event} (hs : s.events = e :: rest) :
    e.external = true ∧ Inv { s with events := rest } := by
  have hall := h.schedule
  rw [hs, List.all_cons, Bool.and_eq_true] at hall
  exact ⟨hall.1, h.withEvents hall.2⟩

/-- The capacity is positive, which every index computation needs. -/
theorem Inv.capacity_pos {s : State} (h : Inv s) : 0 < s.capacity := by
  have := h.params
  simp only [ParamsOk, Config.minCapacity] at this
  omega

/-- A legal slot holds a legal entry. -/
theorem slotLegal_iff {s : State} {i : Nat} :
    SlotLegal s i ↔ ∃ e, slotRead s i = some e ∧ Entry.legal s.channels e = true := by
  cases h : slotRead s i <;> simp [SlotLegal, h]

/-- What the two kinds of report are as entries: both legal, for a channel that exists. -/
theorem legal_control {n : Nat} {ch : BitVec 8} (cand : BitVec 7) (h : ch.toNat < n) :
    Entry.legal n (reportEntry (.control ch cand)) = true := by
  have hv := cand.isLt
  have hw : (cand.setWidth 14).toNat ≤ 127 := by simp; omega
  simp only [Entry.legal, reportEntry, Bool.or_eq_true, Bool.and_eq_true]
  exact .inr ⟨decide_eq_true h, decide_eq_true hw⟩

theorem legal_pitchBend (n : Nat) (v : BitVec 14) : Entry.legal n (reportEntry (.pitchBend v)) = true := by
  simp [Entry.legal, reportEntry]

section
variable {s : State}

theorem producerOk_idle (h : s.producer = .idle) : ProducerOk s := by simp [ProducerOk, h]
theorem producerOk_sampled {op : SampleOp} (h : s.producer = .sampled op) : ProducerOk s := by simp [ProducerOk, h]
theorem consumerOk_idle (h : s.consumer = .idle) : ConsumerOk s := by simp [ConsumerOk, h]
theorem consumerOk_fn1 (h : s.consumer = .fn1) : ConsumerOk s := by simp [ConsumerOk, h]

/-- No operation beyond the busy check runs while a transfer is in flight (43_packetizer.md R184). -/
theorem consumer_of_busy (h : ConsumerOk s) (hb : s.epBusy = true) : s.consumer = .idle ∨ s.consumer = .fn1 := by
  cases hc : s.consumer <;> simp [ConsumerOk, hc, Draining, hb] at h ⊢

/-- No ENQ is in progress while the mode is Disabled (44_mode_control.md R197). -/
theorem producer_of_disabled (h : ProducerOk s) (hm : s.mode = .disabled) :
    s.producer = .idle ∨ ∃ op, s.producer = .sampled op := by
  cases hp : s.producer <;> simp [ProducerOk, hp, hm] at h ⊢

end

end Sys2Proof.Machine
end

