-- ==== Sys2Proof/Machine/Schedule.lean ====
section
/-! DEFINITION. Schedules the spec names: the pseudo-operations (spec/30_encoding.md R96), the start-up order
(70_reset_and_hazards.md R232), and the tighter order of the source's platform, which a claim may assume by name
(20_memory.md R66 (a)). -/

namespace Sys2Proof.Machine

/-- An operation at the port that accepts it, as one step. -/
def operate (i : Instr) : Event := .command (operationPort i) (encode i)

/-- `SAMPLE_CC 0, r0` to `SAMPLE_CC N-1, r(N-1)`, from channel `ch` on. -/
def scanControls : Nat → List (RawSample) → List Event
  | _, [] => []
  | ch, r :: rest => operate (.sampleCc .sample (BitVec.ofNat 8 ch) r) :: scanControls (ch + 1) rest

/-- `SCAN r0, ..., r(N-1), rp`: one scan cycle (R96). -/
def scan (raws : List (RawSample)) (rp : RawSample) : List Event :=
  scanControls 0 raws ++ [operate (.samplePb .sample rp)]

/-- `PRIME_ALL r0, ..., r(N-1), rp`: a scan cycle issued while the mode is Disabled (R96). -/
def primeAll (raws : List (RawSample)) (rp : RawSample) : List Event := scan raws rp

/-- `DRAIN`: FRAME_NOTIFY, issued when the endpoint is idle (R96). -/
def drainOperation : List Event := [operate .frameNotify]

/-- `SETTLE`: TRANSFER_DONE (R96). -/
def settleOperation : List Event := [.transferDone]

/-- The start-up order (70_reset_and_hazards.md R232): prime every channel once, then enable. -/
def startUp (raws : List (RawSample)) (rp : RawSample) : List Event :=
  primeAll raws rp ++ [operate .enable]

/-- The producer moves in this event. -/
def producerMoves : Event → Bool
  | .command p _ => p == .P
  | .present p _ => p == .P
  | .micro p => p == .P
  | .transferDone => false
  | .reset => false
  | .enterIdle => false
  | .transportRead _ => false
  | .request q => (q.extractLsb' 24 2) == 0b01#2
  | .record _ => false

/-- The order of the source's platform, where the consumer interrupts the producer and not the reverse: while a drain
is in progress the producer does not move next (R66 (a)). -/
def platformOrder (s : State) : Bool :=
  s.consumer == .idle || (match s.events with
    | [] => true
    | e :: _ => !producerMoves e)

end Sys2Proof.Machine
end

