-- ==== Sys2Proof/Machine/Text.lean ====
section
/-! DEFINITION. The textual syntax of traces and programs (spec/30_encoding.md R95), read as a schedule: one operation a
line, the port implied by the mnemonic, a comment from `;` to the end of the line. Blanks and commas separate
(log 23). Text is a list of characters. -/

namespace Sys2Proof.Machine

/-- The line without its comment. -/
def stripComment : List Char → List Char
  | [] => []
  | c :: cs => if c = ';' then [] else c :: stripComment cs

/-- A blank, a tab, a comma or a line end separates two words. -/
def isSeparator (c : Char) : Bool := c == ' ' || c == ',' || c == '\t' || c == '\r'

/-- The words of a line; `acc` is the word being read, last character first. -/
def splitWords : List Char → List Char → List (List Char)
  | [], acc => if acc = [] then [] else [acc.reverse]
  | c :: cs, acc =>
    if isSeparator c then
      (if acc = [] then splitWords cs [] else acc.reverse :: splitWords cs [])
    else splitWords cs (c :: acc)

/-- The value of a hexadecimal digit. -/
def digitValue (c : Char) : Option Nat :=
  if '0' ≤ c ∧ c ≤ '9' then some (c.toNat - 48)
  else if 'a' ≤ c ∧ c ≤ 'f' then some (c.toNat - 87)
  else if 'A' ≤ c ∧ c ≤ 'F' then some (c.toNat - 55)
  else none

/-- The value of a digit string in a base, after the digits that made `acc`. -/
def readDigits (base : Nat) : List Char → Nat → Option Nat
  | [], acc => some acc
  | c :: cs, acc =>
    match digitValue c with
    | some d => if d < base then readDigits base cs (acc * base + d) else none
    | none => none

/-- A decimal number, or a hexadecimal one with the prefix `0x`, below a bound. -/
def readNumber (bound : Nat) (w : List Char) : Option Nat :=
  let n :=
    match w with
    | [] => none
    | ['0', 'x'] => none
    | '0' :: 'x' :: ds => readDigits 16 ds 0
    | ds => readDigits 10 ds 0
  match n with
  | some v => if v < bound then some v else none
  | none => none

/-- The sample operand: a raw value, or a Sampler failure with `raw = 0`. -/
def readSample (w : List Char) : Option (SamplerResult × RawSample) :=
  if w = "!unavailable".toList then some (.unavailable, 0#Config.rawBits)
  else if w = "!invalid".toList then some (.invalidChannel, 0#Config.rawBits)
  else (readNumber (2 ^ Config.rawBits) w).map (fun v => (.sample, BitVec.ofNat Config.rawBits v))

/-- The operation of a line's words. -/
def readWords (ws : List (List Char)) : Option Event :=
  match ws with
  | [op] =>
    if op = "FRAME_NOTIFY".toList then some (operate .frameNotify)
    else if op = "ENABLE".toList then some (operate .enable)
    else if op = "DISABLE".toList then some (operate .disable)
    else if op = "TRANSFER_DONE".toList then some .transferDone
    else if op = "RESET".toList then some .reset
    else none
  | [op, sample] =>
    if op = "SAMPLE_PB".toList then
      (readSample sample).map (fun r => operate (.samplePb r.1 r.2))
    else none
  | [op, ch, sample] =>
    if op = "SAMPLE_CC".toList then
      match readNumber 256 ch, readSample sample with
      | some c, some r => some (operate (.sampleCc r.1 (BitVec.ofNat 8 c) r.2))
      | _, _ => none
    else none
  | _ => none

/-- A program as a schedule; an empty line is no operation, and a line that is no operation makes the whole text
unreadable. -/
def readProgram : List (List Char) → Option (List Event)
  | [] => some []
  | line :: rest =>
    match splitWords (stripComment line) [] with
    | [] => readProgram rest
    | ws =>
      match readWords ws, readProgram rest with
      | some e, some es => some (e :: es)
      | _, _ => none

end Sys2Proof.Machine
end

