-- ==== Sys2Proof/Tests/Slice0.lean ====
section
/-! SUPPORT. Tests: the well-formedness checks, words written out from the spec's encodings, vectors of
spec/95_test_vectors.md (each named in its comment), and for every statement with hypotheses a concrete state and operands
that meet them. -/

namespace Sys2Proof.Tests

open Sys2Proof Sys2Proof.Machine Sys2Proof.Claims

/-! ### Well-formedness: each check refuses an ill-formed term -/

theorem test_enq_unknown_tag_is_ill_formed : (Instr.enq 0xAA#8 5#14).wellFormed = false := by decide
theorem test_enq_wide_control_value_is_ill_formed : (Instr.enq 3#8 128#14).wellFormed = false := by decide
theorem test_pktCc_low_controller_is_ill_formed : (Instr.pktCc 10#7 0#7).wellFormed = false := by decide
theorem test_well_formed_terms :
    (Instr.enq 116#8 127#14).wellFormed = true ∧ (Instr.enq 0xFF#8 16383#14).wellFormed = true ∧
    (Instr.pktCc 11#7 0#7).wellFormed = true := by decide

/-! ### Decoding: words written out from 30_encoding.md R81 to R90 -/

/-- R82: `0x10000000 | (ch << 16) | raw`. -/
theorem test_decode_sampleCc : decodeTableWord 32 0x10010FFF = some (.sampleCc .sample 1#8 4095#12) := by decide
/-- R83: `res = 2` in bits 27:26. -/
theorem test_decode_sampleCc_invalid :
    decodeTableWord 32 0x18010000 = some (.sampleCc .invalidChannel 1#8 0#12) := by decide
/-- R82: `0x20000000 | raw`. -/
theorem test_decode_samplePb : decodeTableWord 32 0x20000BB8 = some (.samplePb .sample 3000#12) := by decide
theorem test_decode_samplePb_unavailable :
    decodeTableWord 32 0x24000000 = some (.samplePb .unavailable 0#12) := by decide
theorem test_decode_frameNotify : decodeTableWord 32 0x80000000 = some .frameNotify := by decide
theorem test_decode_enable : decodeTableWord 32 0xC0000000 = some .enable := by decide
theorem test_decode_disable : decodeTableWord 32 0xD0000000 = some .disable := by decide
/-- R85, and the QREQ words under 95_test_vectors.md section 2.4. -/
theorem test_decode_enq : decodeTableWord 32 0x101007F = some (.enq 1#8 127#14) := by decide
theorem test_decode_deq : decodeTableWord 32 0x2000000 = some .deq := by decide
/-- R89's example: channel 1, value 127 gives `0B B0 0C 7F`. -/
theorem test_decode_pktCc : decodeTableWord 32 0x0BB00C7F = some (.pktCc 12#7 127#7) := by decide
/-- R90's example: 9151 gives `0E E0 3F 47`. -/
theorem test_decode_pktPb : decodeTableWord 32 0x0EE03F47 = some (.pktPb 0x3F#7 0x47#7) := by decide
/-- R93: vectors V-I-1 to V-I-3 and V-I-5 to V-I-8. -/
theorem test_illegal_words_at_P :
    [0x00000000#32, 0x30000000#32, 0x80000000#32, 0x1C010800#32, 0x11010800#32, 0x10011800#32, 0x20010800#32].all
      (fun w => decide (illegalWord .P w)) = true := by decide
/-- R93: vectors V-I-4 and V-I-9 to V-I-12. -/
theorem test_illegal_words_at_T :
    [0x10010800#32, 0x80000001#32, 0xC4000000#32, 0xD0010000#32, 0xF0000000#32].all
      (fun w => decide (illegalWord .T w)) = true := by decide
theorem test_illegal_words_are_rejected :
    (decodeCmd .P 0x30000000#32).toOption = none ∧ (decodeCmd .P 0x80000000#32).toOption = none ∧
    (decodeCmd .T 0x10010800#32).toOption = none ∧ (decodeCmd .P 0x1C010800#32).toOption = none ∧
    (decodeCmd .P 0x11010800#32).toOption = none ∧ (decodeCmd .P 0x10011800#32).toOption = none ∧
    (decodeCmd .P 0x20010800#32).toOption = none ∧ (decodeCmd .T 0x80000001#32).toOption = none ∧
    (decodeCmd .T 0xC4000000#32).toOption = none ∧ (decodeCmd .T 0xD0010000#32).toOption = none := by decide
/-- R87 and 95_test_vectors.md section 2.4: the stored entries as words. -/
theorem test_entry_words :
    (Entry.mk 0#8 10#14).word = 0x00000A#24 ∧ (Entry.mk 0xFF#8 8192#14).word = 0xFF2000#24 ∧
    (Entry.mk 1#8 127#14).word = 0x01007F#24 := by decide
/-- R95: a program as text. -/
theorem test_text :
    readProgram ["SAMPLE_CC  1, 0x7F8  ; lower bound".toList, "".toList, "SAMPLE_PB !unavailable".toList,
      "TRANSFER_DONE".toList] =
    some [.command .P 0x100107F8#32, .command .P 0x24000000#32, .transferDone] := by decide
/-- R96: `SCAN 5, 6, 2048` with `N = 2`. -/
theorem test_scan : scan [5#12, 6#12] 2048#12 =
    [.command .P 0x10000005#32, .command .P 0x10010006#32, .command .P 0x20000800#32] := by decide

/-! ### States the vectors start from (95_test_vectors.md: `N = 4`, `C = 8` unless it says otherwise) -/

/-- The reset state with the vectors' parameters. -/
def base : State := State.resetWith 4 8
/-- Enabled, with `lrv` at 0, 64, 127, 10. -/
def on : State := { base with mode := .enabled, lrv := [0#7, 64#7, 127#7, 10#7] }
/-- The same, Disabled. -/
def off : State := { on with mode := .disabled }
/-- A full queue of seven entries. -/
def fullQueue : State :=
  { on with
    wr := 7
    slots := [(1, ⟨0#8, 1#14⟩), (2, ⟨1#8, 2#14⟩), (3, ⟨2#8, 3#14⟩), (4, ⟨3#8, 4#14⟩), (5, ⟨0xFF#8, 8192#14⟩),
      (6, ⟨0#8, 6#14⟩), (7, ⟨0#8, 7#14⟩)] }
/-- V-T-6: the read index is about to wrap. -/
def wrapping : State :=
  { on with rd := 6, wr := 1, slots := [(0, ⟨0xFF#8, 0#14⟩), (1, ⟨0#8, 127#14⟩), (7, ⟨3#8, 5#14⟩)] }
/-- A transfer of one packet in flight. -/
def busy : State :=
  { on with
    epBusy := true, txn := 4, tx := [(0, 0x0E#8), (1, 0xE0#8), (2, 0x7F#8), (3, 0x7F#8)]
    txlog := [⟨[0x0E#8, 0xE0#8, 0x7F#8, 0x7F#8], 4, true⟩] }
/-- The next state of an outcome, or the given one. -/
def nextOr (s : State) : Result → State
  | .next t => t
  | _ => s
/-- The outcome went on. -/
def goesOn : Result → Bool
  | .next _ => true
  | _ => false

/-! ### Vectors, at most two an instruction -/

/-- V-CC-2: one below the window is enqueued as 63 in slot 1. -/
theorem test_sampleCc_below_window :
    exec (.sampleCc .sample 1#8 2039#12) on = .next { on with
      lrv := [0#7, 63#7, 127#7, 10#7], slots := [(1, ⟨1#8, 63#14⟩)], wr := 1, pstat := .enqueued,
      enqAnswer := some 0x1000000#25 } := rfl
/-- V-CC-5: the window of 0 reaches below zero. -/
theorem test_sampleCc_negative_bound :
    exec (.sampleCc .sample 0#8 0#12) on = .next { on with pstat := .noEvent } := rfl
/-- V-PB-5: truncation, not flooring, in the fix-up. -/
theorem test_samplePb_truncates :
    exec (.samplePb .sample 2047#12) { on with sm := 8059, ls := some 8192#14 } = .next { on with
      sm := 8091, ls := some 8091#14, slots := [(1, ⟨0xFF#8, 8091#14⟩)], wr := 1, pstat := .enqueued,
      enqAnswer := some 0x1000000#25 } := rfl
/-- V-PB-6: truncation, not flooring, in the smoother. -/
theorem test_samplePb_smooths :
    exec (.samplePb .sample 2040#12) { on with sm := 8195, ls := some 8192#14 } =
      .next { on with sm := 8187, ls := some 8192#14, pstat := .noEvent } := rfl
/-- V-T-6: the read index wraps; three packets in dequeue order. -/
theorem test_frameNotify_wraps :
    exec .frameNotify wrapping = .next { wrapping with
      rd := 1, txn := 12, tstat := .submitted, epBusy := true, deqAnswer := some 0#25,
      tx := [(0, 0x0B#8), (1, 0xB0#8), (2, 0x0E#8), (3, 0x05#8), (4, 0x0E#8), (5, 0xE0#8), (6, 0#8), (7, 0#8),
        (8, 0x0B#8), (9, 0xB0#8), (10, 0x0B#8), (11, 0x7F#8)],
      txlog := [⟨[0x0B#8, 0xB0#8, 0x0E#8, 0x05#8, 0x0E#8, 0xE0#8, 0#8, 0#8, 0x0B#8, 0xB0#8, 0x0B#8, 0x7F#8], 12,
        true⟩] } := rfl
/-- V-T-2: busy, with entries queued. -/
theorem test_frameNotify_busy :
    exec .frameNotify { fullQueue with epBusy := true, txn := 12 } =
      .next { fullQueue with epBusy := true, txn := 12, tstat := .endpointBusy } := rfl
/-- V-M-1. -/
theorem test_enable : exec .enable base = .next { base with mode := .enabled, tstat := .modeOk } := rfl
/-- V-M-3. -/
theorem test_disable :
    exec .disable { on with rd := 2, wr := 5 } =
      .next { on with mode := .disabled, rd := 5, wr := 5, tstat := .modeOk } := rfl
/-- V-Q-3: the write index wraps at `C = 4`. -/
theorem test_enq_wraps :
    exec (.enq 1#8 20#14) { State.resetWith 4 4 with rd := 3, wr := 3 } = .next { State.resetWith 4 4 with
      rd := 3, wr := 0, slots := [(0, ⟨1#8, 20#14⟩)], enqAnswer := some 0x1000000#25 } := rfl
/-- V-Q-4: the smallest queue holds one entry. -/
theorem test_enq_full :
    exec (.enq 0#8 2#14) { State.resetWith 4 2 with wr := 1 } =
      .next { State.resetWith 4 2 with wr := 1, enqAnswer := some 0#25 } := rfl
/-- R155's example: the answer is `(0, 31)` and the slot keeps it. -/
theorem test_deq :
    exec .deq { State.resetWith 4 4 with wr := 3, slots := [(1, ⟨0#8, 31#14⟩)] } = .next { State.resetWith 4 4 with
      rd := 1, wr := 3, slots := [(1, ⟨0#8, 31#14⟩)], deqAnswer := some 0x100001F#25 } := rfl
/-- R155: an empty queue. -/
theorem test_deq_empty : exec .deq base = .next { base with deqAnswer := some 0#25 } := rfl
/-- R89's example, at the next multiple of 4. -/
theorem test_pktCc :
    exec (.pktCc 12#7 127#7) { base with txn := 4 } = .next { base with
      txn := 8, tx := [(4, 0x0B#8), (5, 0xB0#8), (6, 0x0C#8), (7, 0x7F#8)] } := rfl
/-- R90's example: 8192. -/
theorem test_pktPb :
    exec (.pktPb 0#7 0x40#7) base = .next { base with
      txn := 4, tx := [(0, 0x0E#8), (1, 0xE0#8), (2, 0#8), (3, 0x40#8)] } := rfl
/-- 95_test_vectors.md V-PB-0: both sides of every corner of the fix-up. -/
theorem test_scale :
    scale 0 = 0 ∧ scale 65 = 0 ∧ scale 66 = 1 ∧ scale 4000 = 3967 ∧ scale 8091 = 8091 ∧ scale 8092 = 8192 ∧
    scale 8292 = 8192 ∧ scale 8293 = 8293 ∧ scale 9144 = 9151 ∧ scale 16317 = 16382 ∧ scale 16318 = 16383 ∧
    scale 16380 = 16383 := by decide
/-- V-Q-7, second order: the consumer frees a slot before the producer looks. -/
theorem test_interleaving_nearly_full :
    runMicro [.T, .T, .P, .P, .P, .T] { State.resetWith 4 4 with
      wr := 3, slots := [(1, ⟨0#8, 1#14⟩), (2, ⟨0#8, 2#14⟩), (3, ⟨0#8, 3#14⟩)],
      producer := .eq1 (.control 0#8 9#7), consumer := .dq1 } =
    .next { State.resetWith 4 4 with
      rd := 1, wr := 0, slots := [(0, ⟨0#8, 9#14⟩), (1, ⟨0#8, 1#14⟩), (2, ⟨0#8, 2#14⟩), (3, ⟨0#8, 3#14⟩)],
      producer := .answered (.control 0#8 9#7) true, consumer := .write ⟨0#8, 1#14⟩,
      enqAnswer := some 0x1000000#25, deqAnswer := some 0x1000001#25 } := rfl
/-- Status codes and register words: 60_exceptions.md R200, 10_state.md R20, R23, R28. -/
theorem test_register_words :
    statusCode .illegalOp = 5#4 ∧ statusCode .modeOk = 9#4 ∧ lsWord none = 0xFFFF#16 ∧
    lsWord (some 9151#14) = 9151#16 ∧ modeBit .enabled = 1#1 := by decide

/-! ### Witnesses: states and operands that meet the hypotheses of each statement

A clause that speaks of a next state `t` has its `t` as `nextOr s (…)`. -/

theorem witness_IllegalCommandWordsSetOnlyTheStatus :
    (portIdle .P base = true ∧ illegalWord .P 0x1C010800#32) ∧
    (portIdle .T { base with producer := .eq1 (.control 0#8 9#7) } = true ∧ illegalWord .T 0x80000001#32) ∧
    base.channels ≤ (4#8).toNat := by decide

theorem witness_StepRunsTheDecodedInstruction :
    (decodeCmd .T 0xC0000000#32 = .ok .enable ∧ portIdle .T base = true ∧ portsIdle base = true) ∧
    (decodeCmd .P 0x20000BB8#32 = .ok (.samplePb .sample 3000#12) ∧ portIdle .P base = true ∧
      changesMode (.samplePb .sample 3000#12) = false) ∧
    changesMode .disable = true ∧
    (decodeQreq 0x100000A#26 = .ok (.enq 0#8 10#14) ∧ portIdle (operationPort (.enq 0#8 10#14)) base = true) ∧
    (decodePkt 0x0BB00C7F#32 = .ok (.pktCc 12#7 127#7) ∧ portIdle .T base = true) :=
  ⟨⟨rfl, rfl, rfl⟩, ⟨rfl, rfl, rfl⟩, rfl, ⟨rfl, rfl⟩, ⟨rfl, rfl⟩⟩

/-- The first channel that does not exist, and the last that does. -/
theorem witness_SamplerFailuresChangeOnlyTheStatus :
    base.channels ≤ (4#8).toNat ∧ (3#8).toNat < base.channels := by decide

/-- Both ends of the window. -/
theorem witness_SamplesInsideTheWindowReportNothing :
    (1#8).toNat < on.channels ∧ InWindow (lrvRead on (1#8).toNat) 2040#12 ∧
    InWindow (lrvRead on (1#8).toNat) 2088#12 := by decide

theorem witness_PrimingUpdatesWithoutEnqueueing :
    (1#8).toNat < off.channels ∧ off.mode = .disabled ∧
    ¬ InWindow (lrvRead off (1#8).toNat) 2089#12 ∧ InWindow (lrvRead off (1#8).toNat) 2088#12 := by decide

theorem witness_ChangesWhileEnabledAreEnqueued :
    ((1#8).toNat < on.channels ∧ on.mode = .enabled ∧ ¬ InWindow (lrvRead on (1#8).toNat) 2039#12 ∧
      (on.wr + 1) % on.capacity ≠ on.rd) ∧
    ((1#8).toNat < fullQueue.channels ∧ fullQueue.mode = .enabled ∧
      ¬ InWindow (lrvRead fullQueue (1#8).toNat) 2089#12 ∧
      (fullQueue.wr + 1) % fullQueue.capacity = fullQueue.rd) := by decide

theorem witness_ReportedValueDiffersFromTheCachedOne :
    ¬ InWindow 64#7 2089#12 ∧
    ((1#8).toNat < on.channels ∧ goesOn (exec (.sampleCc .sample 1#8 2089#12) on) = true ∧
      (nextOr on (exec (.sampleCc .sample 1#8 2089#12) on)).pstat = .enqueued) ∧
    ((1#8).toNat < off.channels ∧ off.mode = .disabled ∧ ¬ InWindow (lrvRead off (1#8).toNat) 2089#12 ∧
      goesOn (exec (.sampleCc .sample 1#8 2089#12) off) = true) := by decide

theorem witness_AcknowledgedSamplesDoNotRetrigger :
    ((1#8).toNat < on.channels ∧ goesOn (exec (.sampleCc .sample 1#8 2089#12) on) = true ∧
      (nextOr on (exec (.sampleCc .sample 1#8 2089#12) on)).pstat ≠ .queueFull) ∧
    ((1#8).toNat < fullQueue.channels ∧ goesOn (exec (.sampleCc .sample 1#8 2089#12) fullQueue) = true ∧
      (nextOr fullQueue (exec (.sampleCc .sample 1#8 2089#12) fullQueue)).pstat = .queueFull) := by decide

/-- The thresholds of R120 at both ends, for `v = 64`. -/
theorem witness_ReportThresholdsAreAsymmetric :
    (Change 64#7 2089#12 ∧ (candidate 2089#12).toNat = (64#7).toNat + 1) ∧
    (Change 64#7 2039#12 ∧ (candidate 2039#12).toNat + 1 = (64#7).toNat) ∧
    ¬ Change 64#7 2088#12 ∧ ¬ Change 64#7 2040#12 := by decide

theorem witness_DroppedReportIsRetried :
    (1#8).toNat < fullQueue.channels ∧ fullQueue.mode = .enabled ∧
    ¬ InWindow (lrvRead fullQueue (1#8).toNat) 2089#12 ∧ 2 ≤ fullQueue.capacity ∧ IndicesOk fullQueue ∧
    QueueFull fullQueue ∧ (slotRead fullQueue (advance fullQueue.capacity fullQueue.rd)).isSome = true := by decide

/-- The pitch-bend form, with a sample at the gate's bound next. -/
theorem witness_DroppedReportIsRetried_pitchBend :
    fullQueue.mode = .enabled ∧ fullQueue.ls ≠ some (bendOf fullQueue.sm 2056#12) ∧
    (let t := nextOr on (exec (.samplePb .sample 2056#12) fullQueue)
     t.sm = 8200 ∧ -31 ≤ deltaOf t.sm 2057#12 ∧ deltaOf t.sm 2057#12 ≤ 31 ∧
      t.ls ≠ some (bendOf t.sm 2057#12)) := by decide

theorem witness_PrimedChannelIsQuietAfterEnable :
    (1#8).toNat < off.channels ∧ off.mode = .disabled ∧
    goesOn (andThen (exec (.sampleCc .sample 1#8 2089#12) off) (exec .enable)) = true := by decide

theorem witness_PitchBendSampleResult :
    (off.mode = .disabled) ∧
    ({ on with ls := some 8192#14 }.ls = some (bendOf { on with ls := some 8192#14 }.sm 2055#12)) ∧
    (on.mode = .enabled ∧ on.ls ≠ some (bendOf on.sm 3000#12) ∧ (on.wr + 1) % on.capacity ≠ on.rd) ∧
    (fullQueue.mode = .enabled ∧ fullQueue.ls ≠ some (bendOf fullQueue.sm 2048#12) ∧
      (fullQueue.wr + 1) % fullQueue.capacity = fullQueue.rd) := by decide

/-- The ends of `sm`'s range. -/
theorem witness_PitchBendRanges : SmOk { on with sm := 16380 } ∧ SmOk { on with sm := 0 } := by decide

theorem witness_FixUpIsMonotone :
    (8091 : Int) ≤ 8092 ∧ (-100 : Int) ≤ 8092 - 8192 ∧ (8292 : Int) - 8192 ≤ 100 := by decide

/-- The gate's bound, and one past it on either side. -/
theorem witness_SmoothingMovesTowardTheControl :
    (-31 ≤ deltaOf { base with sm := 8193 }.sm 2056#12 ∧ deltaOf { base with sm := 8193 }.sm 2056#12 ≤ 31) ∧
    31 < deltaOf base.sm 2056#12 ∧ deltaOf base.sm 2040#12 < -31 := by decide

theorem witness_ConstantPitchBendConverges : SmOk { base with sm := 0 } ∧ SmOk base := by decide

theorem witness_FrameOfSampleOperations :
    goesOn (exec (.sampleCc .sample 1#8 2039#12) on) = true ∧ goesOn (exec (.samplePb .sample 3000#12) on) = true ∧
    (nextOr on (exec (.sampleCc .sample 1#8 2040#12) on)).pstat ≠ .enqueued ∧
    (nextOr off (exec (.samplePb .sample 3000#12) off)).pstat ≠ .enqueued := by decide

theorem witness_EnqResult :
    (fullQueue.wr + 1) % fullQueue.capacity = fullQueue.rd ∧ (on.wr + 1) % on.capacity ≠ on.rd := by decide

theorem witness_DeqResult :
    base.rd = base.wr ∧
    (fullQueue.rd ≠ fullQueue.wr ∧
      slotRead fullQueue ((fullQueue.rd + 1) % fullQueue.capacity) = some ⟨0#8, 1#14⟩) := by decide

theorem witness_QueueIsFirstInFirstOut :
    2 ≤ wrapping.capacity ∧ IndicesOk wrapping ∧ QueueOk wrapping ∧ ¬ QueueFull wrapping ∧
    wrapping.rd ≠ wrapping.wr := by decide

theorem witness_CapacityIsOneLessThanTheSlots :
    2 ≤ (State.resetWith 4 2).capacity ∧ IndicesOk (State.resetWith 4 2) ∧
    (State.resetWith 4 2).rd = (State.resetWith 4 2).wr ∧
    [Entry.mk 0#8 1#14, Entry.mk 0#8 2#14].length = (State.resetWith 4 2).capacity := by decide

/-- A producer at EQ1 and a consumer at DQ1 over a queue with entries. -/
def contended : State :=
  { wrapping with producer := .eq1 (.control 0#8 9#7), consumer := .dq1 }

theorem contended_inv : Inv contended where
  params := by decide
  indices := by decide
  memories := by decide
  txn := by decide
  sm := by decide
  queue := by decide
  disabled := by decide
  producer := by show _ ∧ _; decide
  consumer := by show _ ∧ _; decide
  transfers := by decide
  inFlight := by decide
  schedule := by decide

theorem witness_EnqAndDeqAreLinearisable :
    Inv contended ∧ contended.producer = .eq1 (.control 0#8 9#7) ∧ contended.consumer = .dq1 ∧
    [Port.T, .P, .T, .P, .P, .T].count .T ≤ 3 ∧
    runMicro [.T, .P, .T, .P, .P, .T] contended = .next { wrapping with
      rd := 7, wr := 2
      slots := [(0, ⟨0xFF#8, 0#14⟩), (1, ⟨0#8, 127#14⟩), (2, ⟨0#8, 9#14⟩), (7, ⟨3#8, 5#14⟩)]
      producer := .answered (.control 0#8 9#7) true, consumer := .write ⟨3#8, 5#14⟩
      enqAnswer := some 0x1000000#25, deqAnswer := some 0x1030005#25 } :=
  ⟨contended_inv, rfl, rfl, by decide, rfl⟩

theorem witness_FrameOfQueueRequests :
    goesOn (exec (.enq 0#8 9#14) on) = true ∧ goesOn (exec .deq wrapping) = true := by decide

/-- A producer about to write slot 2 and a consumer about to write the last packet that fits. -/
def writing : State :=
  { wrapping with producer := .eq2 (.control 0#8 9#7) 2, consumer := .write ⟨0xFF#8, 8192#14⟩, txn := 60 }

/-- Each memory is written where the phase says, and the place beside it is not. -/
theorem witness_EachAgentWritesOnlyItsOwnState :
    (goesOn (microStep .P writing) = true ∧ slotRead (nextOr on (microStep .P writing)) 2 = some ⟨0#8, 9#14⟩ ∧
      slotRead (nextOr on (microStep .P writing)) 1 = slotRead writing 1) ∧
    (goesOn (microStep .T writing) = true ∧ txRead (nextOr on (microStep .T writing)) 63 = some 0x40#8 ∧
      txRead (nextOr on (microStep .T writing)) 59 = txRead writing 59) ∧
    (goesOn (microStep .P { on with producer := .answered (.control 1#8 9#7) true }) = true ∧
      (1#8).toNat ≠ 0) := by decide

/-- An operation that ends in each of its ways, and one that goes on. -/
theorem witness_StatusIsWrittenByTheLastMicroStep :
    producerEnd { on with producer := .sampled (.control .sample 1#8 2089#12) } = none ∧
    producerEnd { on with producer := .sampled (.control .sample 1#8 2088#12) } = some .noEvent ∧
    producerEnd { on with producer := .sampled (.control .unavailable 4#8 0#12) } = some .invalidChannel ∧
    producerEnd { on with producer := .sampled (.pitchBend .unavailable 0#12) } = some .sampleTimeout ∧
    producerEnd { on with producer := .sampled (.pitchBend .sample 2048#12) } = none ∧
    producerEnd { on with producer := .answered (.control 1#8 9#7) false } = some .queueFull ∧
    (goesOn (microStep .T contended) = true ∧ consumerEnd contended = none) ∧
    (goesOn (microStep .T { busy with consumer := .fn1 }) = true ∧
      consumerEnd { busy with consumer := .fn1 } = some .endpointBusy) ∧
    (goesOn (microStep .T { busy with epBusy := false, consumer := .fn4 }) = true ∧
      consumerEnd { busy with epBusy := false, consumer := .fn4 } = some .submitted) := by decide

theorem witness_NoMicroStepEverWaits :
    Inv contended ∧ portIdle .P contended = false ∧ portIdle .T contended = false :=
  ⟨contended_inv, rfl, rfl⟩

theorem witness_MicroStepsOfSampleOperationsAreTheOperation : on.producer = .idle := by decide

theorem witness_MicroStepsOfFrameNotifyAreTheOperation : wrapping.consumer = .idle := by decide

theorem witness_FrameNotifyWhileBusy : busy.epBusy = true := by decide

theorem witness_FrameNotifyOnAnEmptyQueue : base.epBusy = false ∧ base.rd = base.wr := by decide

theorem witness_FrameNotifyDrainsAndSubmits :
    ParamsOk wrapping ∧ IndicesOk wrapping ∧ QueueOk wrapping ∧ wrapping.epBusy = false ∧
    wrapping.rd ≠ wrapping.wr := by decide

theorem witness_FrameOfFrameNotify :
    goesOn (exec .frameNotify wrapping) = true ∧ goesOn (exec .frameNotify busy) = true ∧ busy.epBusy = true := by
  decide

/-- The largest `N` and its last channel. -/
theorem witness_EntriesBecomeTheTwoPacketFormats :
    117 ≤ 117 ∧ (Entry.mk 0xFF#8 16383#14).tag = 0xFF#8 ∧ (Entry.mk 116#8 127#14).tag.toNat < 117 := by decide

/-- The last packet that fits. -/
theorem witness_PacketRecordsAppendTheirBytes :
    { base with txn := 60 }.epBusy = false ∧ { base with txn := 60 }.txn + 4 ≤ 64 := by decide

theorem witness_FormsTheModelStopsOn :
    ({ on with wr := 1 }.rd ≠ { on with wr := 1 }.wr ∧
      slotRead { on with wr := 1 } ((0 + 1) % { on with wr := 1 }.capacity) = none) ∧
    ({ on with wr := 1, slots := [(1, ⟨4#8, 0#14⟩)] }.epBusy = false ∧ on.channels ≤ (4#8).toNat ∧
      slotRead { on with wr := 1, slots := [(1, ⟨4#8, 0#14⟩)] } 1 = some ⟨4#8, 0#14⟩ ∧ 4#8 ≠ 0xFF#8) ∧
    busy.epBusy = true ∧ ({ on with txn := 64 }.epBusy = false ∧ 64 < { on with txn := 64 }.txn + 4) := by decide

theorem witness_OperationsBeginAtBoundaries :
    ({ on with producer := .sampled (.pitchBend .sample 0#12) }.consumer = .idle ∧
      { on with producer := .sampled (.pitchBend .sample 0#12) }.producer ≠ .idle) ∧
    portIdle .T contended = false ∧ portIdle .P contended = false := by decide

/-- Disabled, with a step scheduled. -/
theorem off_inv : Inv off where
  params := by decide
  indices := by decide
  memories := by decide
  txn := by decide
  sm := by decide
  queue := by decide
  disabled := by decide
  producer := trivial
  consumer := trivial
  transfers := by decide
  inFlight := by decide
  schedule := by decide

theorem witness_NothingIsEnqueuedWhileDisabled :
    Inv { off with events := [.command .P 0x10010829#32] } ∧ off.mode = .disabled ∧
    goesOn (step { off with events := [.command .P 0x10010829#32] }) = true :=
  ⟨off_inv.withEvents rfl, rfl, rfl⟩

theorem witness_InvariantHoldsAfterReset : 1 ≤ 1 ∧ 117 ≤ 117 ∧ 2 ≤ 2 ∧ 65536 ≤ 65536 := by decide

theorem witness_EveryStepKeepsTheInvariant :
    Inv { off with events := [.command .T 0xC0000000#32] } ∧
    goesOn (step { off with events := [.command .T 0xC0000000#32] }) = true :=
  ⟨off_inv.withEvents rfl, rfl⟩

/-- A full queue about to be drained. -/
theorem fullQueue_inv : Inv fullQueue where
  params := by decide
  indices := by decide
  memories := by decide
  txn := by decide
  sm := by decide
  queue := by decide
  disabled := by decide
  producer := trivial
  consumer := trivial
  transfers := by decide
  inFlight := by decide
  schedule := by decide

theorem witness_StreamIsKeptByEveryStep :
    Inv { fullQueue with events := [.command .T 0x80000000#32] } ∧ fullQueue.mode = .enabled ∧
    goesOn (step { fullQueue with events := [.command .T 0x80000000#32] }) = true ∧
    (nextOr on (step { fullQueue with events := [.command .T 0x80000000#32] })).mode = .enabled :=
  ⟨fullQueue_inv.withEvents rfl, rfl, rfl, rfl⟩

theorem witness_NoStepReadsUnwrittenMemory : Inv { fullQueue with events := [.command .T 0x80000000#32] } :=
  fullQueue_inv.withEvents rfl

/-- A transfer in flight. -/
theorem busy_inv : Inv busy where
  params := by decide
  indices := by decide
  memories := by decide
  txn := by decide
  sm := by decide
  queue := by decide
  disabled := by decide
  producer := trivial
  consumer := trivial
  transfers := by decide
  inFlight := by decide
  schedule := by decide

theorem witness_AtMostOneTransferIsInFlight :
    (Inv { busy with events := [.transferDone] } ∧ busy.epBusy = true ∧
      goesOn (step { busy with events := [.transferDone] }) = true ∧
      (nextOr on (step { busy with events := [.transferDone] })).epBusy = false) ∧
    (Inv { fullQueue with events := [.command .T 0x80000000#32] } ∧ fullQueue.epBusy = false ∧
      (nextOr on (step { fullQueue with events := [.command .T 0x80000000#32] })).epBusy = true) :=
  ⟨⟨busy_inv.withEvents rfl, rfl, rfl, rfl⟩, fullQueue_inv.withEvents rfl, rfl, rfl⟩

theorem witness_BufferIsUntouchedInFlight :
    Inv { busy with events := [.command .T 0x80000000#32] } ∧ busy.epBusy = true ∧
    goesOn (step { busy with events := [.command .T 0x80000000#32] }) = true ∧
    (nextOr on (step { busy with events := [.command .T 0x80000000#32] })).epBusy = true :=
  ⟨busy_inv.withEvents rfl, rfl, rfl, rfl⟩

theorem witness_ModeIsWrittenOnlyByItsOperations :
    (nextOr off (step { off with events := [.present .T 0xC0000000#32] })).mode ≠ off.mode ∧
    (nextOr on (step { on with events := [.command .T 0xD0000000#32] })).mode ≠ on.mode ∧
    (nextOr on (step { on with events := [.reset] })).mode ≠ on.mode := by decide

theorem witness_ParametersNeverChange : goesOn (step { on with events := [.reset] }) = true := by decide

theorem witness_TransferDoneOnlyClearsBusy :
    { busy with events := [.transferDone] }.events = [.transferDone] ∧ busy.epBusy = true ∧
    { on with events := [.transferDone] }.epBusy = false := by decide

theorem witness_ResetPutsEveryRegisterAtItsResetValue :
    { on with events := [.reset] }.events = [.reset] ∧ on.producer = .idle ∧ on.consumer = .idle ∧
    contended.producer ≠ .idle ∧ contended.consumer ≠ .idle := by decide

/-- The last byte in flight, and the first outside it. -/
theorem witness_IdleEntryAndTransportReadsChangeNothing :
    portsIdle base = true ∧ portsIdle contended = false ∧ (busy.epBusy = true ∧ 3 < busy.txn) ∧
    (busy.txn ≤ 4) := by decide

/-! ### The host's two questions, on one word of each row, right after reset -/

theorem test_rows_run_after_reset :
    [(32, 0x10000000), (32, 0x20000000), (32, 0x80000000), (32, 0xC0000000), (32, 0xD0000000), (32, 0x01000000),
      (32, 0x02000000), (32, 0x0BB00000), (32, 0x0EE00000)].all
      (fun r => (decodeTableWord r.1 r.2).isSome && goesOn (step (State.reset.withFetchWord r.1 r.2))) = true := by
  decide

end Sys2Proof.Tests
end

section
/-! SUPPORT. What a completed outcome tells about its parts: the boundary, the three ways a word is delivered, and the
rounds of the drain loop. Proofs about every step cite these. -/

namespace Sys2Proof.Machine

/-- An operation that completed was allowed to begin (70_reset_and_hazards.md R240, 44_mode_control.md R193). -/
theorem atBoundary_eq_next {i : Instr} {run : State → Result} {s t : State} (h : atBoundary i run s = .next t) :
    portIdle (operationPort i) s = true ∧ (changesMode i = true → portsIdle s = true) ∧ run s = .next t := by
  rcases atBoundary_cases i run s with hb | ⟨-, -, hb⟩ | ⟨hp, hm, hb⟩
  · rw [hb] at h; cases h
  · rw [hb] at h; cases h
  · exact ⟨hp, hm, hb ▸ h⟩

/-- A command word that completed was illegal and reported, or was an operation that ran. -/
theorem deliverCommand_eq_next {p : Port} {w : CmdWord} {run : Instr → State → Result} {s t : State}
    (h : deliverCommand p w run s = .next t) :
    (portIdle p s = true ∧ (∃ r, decodeCmd p w = .error r) ∧ t = setStatus p .illegalOp s) ∨
    (portIdle p s = true ∧ ∃ i, decodeCmd p w = .ok i ∧ atBoundary i (run i) s = .next t) := by
  rcases deliverCommand_cases p w run s with hd | ⟨hp, hr, hd⟩ | ⟨hp, i, hi, hd⟩
  · rw [hd] at h; cases h
  · rw [hd] at h; cases h
    exact .inl ⟨hp, hr, rfl⟩
  · exact .inr ⟨hp, i, hi, hd ▸ h⟩

/-- A bare word on the bus that completed was no request, or one that ran (30_encoding.md R85). -/
theorem deliverRequest_eq_next {q : QReqWord} {s t : State} (h : deliverRequest q s = .next t) :
    (decodeQreq q = .error .noRequest ∧ t = s) ∨
    (∃ i, decodeQreq q = .ok i ∧ atBoundary i (exec i) s = .next t) := by
  unfold deliverRequest at h
  split at h
  case h_1 hq => cases h; exact .inl ⟨hq, rfl⟩
  case h_2 => cases h
  case h_3 i hq => exact .inr ⟨i, hq, h⟩

/-- A bare packet record that completed was a packet and was written (30_encoding.md R94). -/
theorem deliverRecord_eq_next {w : PktWord} {s t : State} (h : deliverRecord w s = .next t) :
    ∃ i, decodePkt w = .ok i ∧ atBoundary i (exec i) s = .next t := by
  unfold deliverRecord at h
  split at h
  case h_1 => cases h
  case h_2 i hw => exact ⟨i, hw, h⟩

/-- The packet of an entry is found or the machine stops. -/
theorem packetFor_eq_next {e : Entry} {s : State} {p : Packet} :
    packetFor e s = .next p ↔ entryPacket s.channels e = some p := by
  unfold packetFor
  cases entryPacket s.channels e <;> simp

/-- What one turn of the drain loop did when the loop completed (43_packetizer.md R172, R175). -/
theorem drain_succ_cases {k : Nat} {s t : State} (h : drain (k + 1) s = .next t) :
    (¬ Room s ∧ t = s) ∨
    (Room s ∧ QueueEmpty s ∧ t = { s with deqAnswer := some (answerWord false 0#24) }) ∨
    (Room s ∧ ¬ QueueEmpty s ∧ ∃ e p, slotRead s (advance s.capacity s.rd) = some e ∧
      entryPacket s.channels e = some p ∧
      drain k (appendPacket p
        { s with rd := advance s.capacity s.rd, deqAnswer := some (answerWord true e.word) }) = .next t) := by
  by_cases hr : Room s
  · simp only [drain, if_pos hr] at h
    obtain ⟨⟨u, o⟩, hd, hu⟩ := andThen_eq_next.1 h
    rcases dequeue_cases hd with ⟨hq, rfl, rfl⟩ | ⟨hq, e, rfl, he, rfl⟩
    · cases hu
      exact .inr (.inl ⟨hr, hq, rfl⟩)
    · obtain ⟨p, hp, hu⟩ := andThen_eq_next.1 hu
      exact .inr (.inr ⟨hr, hq, e, p, he, packetFor_eq_next.1 hp, hu⟩)
  · rw [drain_noRoom hr] at h
    cases h
    exact .inl ⟨hr, rfl⟩

end Sys2Proof.Machine
end

section
/-! The parameters `N` and `C` along every step (spec/00_scope.md R7, 20_memory.md R51). `N` is the length of the `lrv`
file, so what has to be seen is that no operation changes that length. -/

namespace Sys2Proof.Machine

/-- The two parameters a state carries, `N` and `C` (R7). -/
def State.parameters (s : State) : Nat × Nat := (s.channels, s.capacity)

theorem parameters_eq_iff {s t : State} :
    t.parameters = s.parameters ↔ t.channels = s.channels ∧ t.capacity = s.capacity := Prod.mk_inj

/-- An operation after which `N` and `C` are what they were, wherever it completes. -/
def KeepsParameters (run : State → Result) : Prop :=
  ∀ ⦃s t : State⦄, run s = .next t → t.parameters = s.parameters

/-! ### The shared operations -/

@[simp] theorem lrvWrite_parameters (i : Nat) (v : BitVec 7) (s : State) :
    (lrvWrite i v s).parameters = s.parameters := by
  simp [State.parameters, State.channels]

@[simp] theorem setStatus_parameters (p : Port) (c : Status) (s : State) :
    (setStatus p c s).parameters = s.parameters := by
  simp [State.parameters, State.channels]

@[simp] theorem resetWith_parameters (n c : Nat) : (State.resetWith n c).parameters = (n, c) := by
  simp [State.parameters, State.channels]

@[simp] theorem enqueue_parameters (e : Entry) (s : State) : (enqueue e s).1.parameters = s.parameters := by
  rcases enqueue_cases e s with ⟨-, h⟩ | ⟨-, h⟩ <;> rw [h] <;> rfl

theorem dequeue_parameters {s t : State} {o : Option Entry} (h : dequeue s = .next (t, o)) :
    t.parameters = s.parameters := by
  rcases dequeue_cases h with ⟨-, -, rfl⟩ | ⟨-, e, -, -, rfl⟩ <;> rfl

@[simp] theorem settle_parameters (r : Report) (ok : Bool) (s : State) :
    (settle r ok s).parameters = s.parameters := by
  cases ok with
  | false => simp only [settle_full]; rfl
  | true =>
    cases r with
    | control ch cand => exact lrvWrite_parameters ch.toNat cand s
    | pitchBend v => rfl

@[simp] theorem finishSample_parameters (front : State × Option Report) :
    (finishSample front).parameters = front.1.parameters := by
  obtain ⟨s, _ | r⟩ := front
  · rfl
  · simp [finishSample]

/-! ### The filters' own lines -/

@[simp] theorem quantizerFront_parameters (res : SamplerResult) (ch : BitVec 8) (raw : RawSample) (s : State) :
    (quantizerFront res ch raw s).1.parameters = s.parameters := by
  rcases quantizerFront_cases res ch raw s with
    ⟨-, h⟩ | ⟨-, -, h⟩ | ⟨-, -, -, h⟩ | ⟨-, -, -, -, h⟩ | ⟨-, -, -, -, h⟩ <;>
    simp [h, State.parameters, State.channels]

@[simp] theorem pitchBendFront_parameters (res : SamplerResult) (raw : RawSample) (s : State) :
    (pitchBendFront res raw s).1.parameters = s.parameters := by
  rcases pitchBendFront_cases res raw s with ⟨-, h⟩ | ⟨-, h⟩ | ⟨-, -, -, h⟩ | ⟨-, -, h⟩ <;>
    simp [h, State.parameters]

@[simp] theorem sampleFront_parameters (op : SampleOp) (s : State) :
    (sampleFront op s).1.parameters = s.parameters := by
  cases op with
  | control res ch raw => exact quantizerFront_parameters res ch raw s
  | pitchBend res raw => exact pitchBendFront_parameters res raw s

@[simp] theorem afterFront_parameters (front : State × Option Report) :
    (afterFront front).parameters = front.1.parameters := by
  obtain ⟨s, _ | r⟩ := front <;> rfl

/-! ### The operations as one step -/

theorem drain_keepsParameters (k : Nat) : KeepsParameters (drain k) := by
  induction k with
  | zero => intro s t h; cases h; rfl
  | succ k ih =>
    intro s t h
    rcases drain_succ_cases h with ⟨-, rfl⟩ | ⟨-, -, rfl⟩ | ⟨-, -, e, p, -, -, hd⟩
    · rfl
    · rfl
    · exact (ih hd).trans rfl

theorem finishDrain_keepsParameters : KeepsParameters finishDrain := by
  intro s t h
  rcases finishDrain_cases h with ⟨-, rfl⟩ | ⟨-, bytes, -, rfl⟩ <;> rfl

theorem recordPacket_keepsParameters (p : Packet) : KeepsParameters (recordPacket p) := by
  intro s t h
  rcases recordPacket_cases p s with ⟨-, hr⟩ | ⟨-, -, hr⟩ | ⟨-, -, hr⟩ <;> rw [hr] at h <;> cases h
  rfl

theorem execFrameNotify_keepsParameters : KeepsParameters execFrameNotify := by
  intro s t h
  unfold execFrameNotify at h
  split at h
  · cases h; exact setStatus_parameters ..
  · obtain ⟨u, hd, hf⟩ := andThen_eq_next.1 h
    calc t.parameters = u.parameters := finishDrain_keepsParameters hf
      _ = s.parameters := (drain_keepsParameters _ hd).trans rfl

theorem exec_keepsParameters (i : Instr) : KeepsParameters (exec i) := by
  intro s t h
  cases i with
  | sampleCc res ch raw => cases h; simp
  | samplePb res raw => cases h; simp
  | frameNotify => exact execFrameNotify_keepsParameters h
  | enable => cases h; rfl
  | disable => cases h; rfl
  | enq tag value => cases h; simp
  | deq =>
    obtain ⟨⟨u, o⟩, hd, hu⟩ := andThen_eq_next.1 h
    cases hu
    exact dequeue_parameters hd
  | pktCc c v => exact recordPacket_keepsParameters _ h
  | pktPb l m => exact recordPacket_keepsParameters _ h

/-! ### The operations in micro-steps -/

/-- An operation with phases only enters the first of them; every other operation runs whole. -/
theorem beginOperation_keepsParameters (i : Instr) : KeepsParameters (beginOperation i) := by
  intro s t h
  cases i with
  | sampleCc | samplePb | frameNotify => cases h; rfl
  | enable | disable | enq | deq | pktCc | pktPb =>
    simp only [beginOperation] at h
    exact exec_keepsParameters _ h

theorem producerStep_keepsParameters : KeepsParameters producerStep := by
  intro s t h
  cases hp : s.producer with
  | idle => rw [producerStep_idle hp] at h; cases h; rfl
  | sampled op => rw [producerStep_sampled hp] at h; cases h; simp
  | eq1 r =>
    by_cases hf : QueueFull s
    · rw [producerStep_eq1_full hp hf] at h; cases h; rfl
    · rw [producerStep_eq1_room hp hf] at h; cases h; rfl
  | eq2 r nxt => rw [producerStep_eq2 hp] at h; cases h; rfl
  | eq3 r nxt => rw [producerStep_eq3 hp] at h; cases h; rfl
  | answered r ok => rw [producerStep_answered hp] at h; cases h; exact settle_parameters r ok s

/-- DQ3 answers with the entry of a written slot and changes nothing else (42_event_queue.md R155). -/
theorem dq3_parameters {nxt : Nat} {s t : State} {e : Entry} (h : dq3 nxt s = .next (t, e)) :
    t.parameters = s.parameters := by
  unfold dq3 at h
  split at h <;> cases h
  rfl

theorem consumerStep_keepsParameters : KeepsParameters consumerStep := by
  intro s t h
  cases hc : s.consumer with
  | idle => rw [consumerStep_idle hc] at h; cases h; rfl
  | fn1 =>
    cases hb : s.epBusy with
    | true => rw [consumerStep_fn1_busy hc hb] at h; cases h; rfl
    | false => rw [consumerStep_fn1_idle hc hb] at h; cases h; rfl
  | fn2 => rw [consumerStep_fn2 hc] at h; cases h; rfl
  | fn3 =>
    by_cases hr : Room s
    · rw [consumerStep_fn3_room hc hr] at h; cases h; rfl
    · rw [consumerStep_fn3_noRoom hc hr] at h; cases h; rfl
  | dq1 =>
    by_cases hq : QueueEmpty s
    · rw [consumerStep_dq1_empty hc hq] at h; cases h; rfl
    · rw [consumerStep_dq1_entry hc hq] at h; cases h; rfl
  | dq2 => rw [consumerStep_dq2 hc] at h; cases h; rfl
  | dq3 nxt =>
    simp only [consumerStep, hc] at h
    obtain ⟨⟨u, e⟩, hd, hu⟩ := andThen_eq_next.1 h
    cases hu
    exact (dq3_parameters hd).trans rfl
  | write e =>
    simp only [consumerStep, hc] at h
    obtain ⟨p, -, hu⟩ := andThen_eq_next.1 h
    cases hu; rfl
  | fn4 =>
    rw [consumerStep_fn4 hc] at h
    obtain ⟨u, hf, hu⟩ := andThen_eq_next.1 h
    cases hu
    exact (finishDrain_keepsParameters hf).trans rfl

theorem microStep_keepsParameters (p : Port) : KeepsParameters (microStep p) := by
  cases p with
  | P => exact producerStep_keepsParameters
  | T => exact consumerStep_keepsParameters

/-! ### The environment's steps -/

theorem transferDone_keepsParameters : KeepsParameters transferDone := by
  intro s t h
  unfold transferDone at h
  split at h <;> cases h
  rfl

/-- RESET builds the new state with the parameters of the old one (log 21). -/
theorem resetStep_keepsParameters : KeepsParameters resetStep := by
  intro s t h
  unfold resetStep at h
  split at h <;> cases h
  exact resetWith_parameters s.channels s.capacity

theorem enterIdle_keepsParameters : KeepsParameters enterIdle := by
  intro s t h
  unfold enterIdle at h
  split at h <;> cases h
  rfl

theorem transportRead_keepsParameters (off : Nat) : KeepsParameters (transportRead off) := by
  intro s t h
  unfold transportRead at h
  split at h <;> cases h
  rfl

/-! ### Every event, every step -/

theorem atBoundary_keepsParameters {i : Instr} {run : State → Result} (hrun : KeepsParameters run) :
    KeepsParameters (atBoundary i run) :=
  fun _ _ h => hrun (atBoundary_eq_next h).2.2

theorem deliverCommand_keepsParameters (p : Port) (w : CmdWord) {run : Instr → State → Result}
    (hrun : ∀ i, KeepsParameters (run i)) : KeepsParameters (deliverCommand p w run) := by
  intro s t h
  rcases deliverCommand_eq_next h with ⟨-, -, rfl⟩ | ⟨-, i, -, hb⟩
  · exact setStatus_parameters ..
  · exact atBoundary_keepsParameters (hrun i) hb

theorem deliver_keepsParameters (e : Event) : KeepsParameters (deliver e) := by
  intro s t h
  cases e with
  | command p w => exact deliverCommand_keepsParameters p w exec_keepsParameters h
  | present p w => exact deliverCommand_keepsParameters p w beginOperation_keepsParameters h
  | micro p => exact microStep_keepsParameters p h
  | transferDone => exact transferDone_keepsParameters h
  | reset => exact resetStep_keepsParameters h
  | enterIdle => exact enterIdle_keepsParameters h
  | transportRead off => exact transportRead_keepsParameters off h
  | request q =>
    rcases deliverRequest_eq_next h with ⟨-, rfl⟩ | ⟨i, -, hb⟩
    · rfl
    · exact atBoundary_keepsParameters (exec_keepsParameters i) hb
  | record w =>
    obtain ⟨i, -, hb⟩ := deliverRecord_eq_next h
    exact atBoundary_keepsParameters (exec_keepsParameters i) hb

theorem step_keepsParameters : KeepsParameters step := by
  intro s t h
  cases he : s.events with
  | nil => rw [step_of_empty he] at h; cases h; rfl
  | cons e rest =>
    rw [step_of_cons he] at h
    exact (deliver_keepsParameters e h).trans rfl

/-- Settles O52: every event, RESET included, leaves the length of the `lrv` file and the capacity as they were. -/
theorem parametersNeverChange : Obligations.ParametersNeverChange :=
  fun _ _ h => parameters_eq_iff.1 (step_keepsParameters h)

end Sys2Proof.Machine
end

section
/-! SUPPORT. The command decoder read backwards (spec/30_encoding.md R81 to R84): what a word that decodes was, at which
port, and which operations it can be. -/

namespace Sys2Proof

/-- The operations of the two external ports (R82). -/
def Instr.isCommand : Instr → Bool
  | .sampleCc _ _ _ | .samplePb _ _ | .frameNotify | .enable | .disable => true
  | .enq _ _ | .deq | .pktCc _ _ | .pktPb _ _ => false

/-- A word whose reserved bits are zero is its four fields. -/
theorem cmdWord_of_zero {w : CmdWord} (ha : cmdZeroA w = 0#2) (hb : cmdZeroB w = 0#4) :
    cmdWord (cmdOp w) (cmdRes w) (cmdCh w) (cmdRaw w) = w := by
  have hw := w.isLt
  have ha' := congrArg BitVec.toNat ha
  have hb' := congrArg BitVec.toNat hb
  simp only [cmdZeroA, cmdZeroB, extractLsb'_value, BitVec.toNat_ofNat] at ha' hb'
  apply BitVec.eq_of_toNat_eq
  simp only [cmdWord_value, cmdOp, cmdRes, cmdCh, cmdRaw, extractLsb'_value, Config.rawBits]
  omega

/-- The fields that decode are those of the operation's own encoding, and the operation code names its port. -/
theorem decodeCmdFields_eq_ok {op : BitVec 4} {res : BitVec 2} {ch : BitVec 8} {raw : RawSample} {i : Instr}
    (h : decodeCmdFields op res ch raw = .ok i) :
    encode i = cmdWord op res ch raw ∧ opPort op = some (Machine.operationPort i) ∧ i.isCommand = true := by
  unfold decodeCmdFields at h
  split at h
  case isTrue hop =>
    subst hop
    split at h <;> cases h
    case h_1 r hr => exact ⟨by rw [encode, decodeRes_eq_ok hr], rfl, rfl⟩
  split at h
  case isTrue hop =>
    subst hop
    split at h
    · cases h
    · rename_i hch
      split at h <;> cases h
      case h_1 r hr => exact ⟨by rw [encode, decodeRes_eq_ok hr, not_not.1 hch], rfl, rfl⟩
  split at h
  · cases h
  rename_i hzero
  simp only [not_or, not_not] at hzero
  obtain ⟨rfl, rfl, rfl⟩ := hzero
  split at h
  case isTrue hop => subst hop; cases h; exact ⟨rfl, rfl, rfl⟩
  split at h
  case isTrue hop => subst hop; cases h; exact ⟨rfl, rfl, rfl⟩
  split at h
  case isTrue hop => subst hop; cases h; exact ⟨rfl, rfl, rfl⟩
  cases h

/-- A command word that decodes is the encoding of its operation, which is one of its port's (R81, R84). -/
theorem decodeCmd_eq_ok {p : Port} {w : CmdWord} {i : Instr} (h : decodeCmd p w = .ok i) :
    encode i = w ∧ Machine.operationPort i = p ∧ i.isCommand = true := by
  unfold decodeCmd at h
  split at h
  · cases h
  rename_i q hq
  split at h
  · cases h
  rename_i hp
  split at h
  · cases h
  rename_i hz
  obtain ⟨ha, hb⟩ := not_or.1 hz
  obtain ⟨he, hport, hcmd⟩ := decodeCmdFields_eq_ok h
  rw [cmdWord_of_zero (not_not.1 ha) (not_not.1 hb)] at he
  exact ⟨he, Option.some.inj (hport.symm.trans (hq.trans (congrArg some (not_not.1 hp)))), hcmd⟩

end Sys2Proof
end

section
/-! SUPPORT. The places of the queued entries (spec/10_state.md R31): how many there are and which slots they stand in,
after an entry is published and after one is taken. -/

namespace Sys2Proof.Machine

/-- An index sum wraps at most once. -/
theorem mod_of_lt_two_mul {c x : Nat} (h : x < 2 * c) : x % c = if x < c then x else x - c := by
  split
  · exact Nat.mod_eq_of_lt ‹_›
  · rw [Nat.mod_eq_sub_mod (by omega), Nat.mod_eq_of_lt (by omega)]

theorem advance_inj {c i j : Nat} (hi : i < c) (hj : j < c) : advance c i = advance c j ↔ i = j := by
  rw [advance_eq hi, advance_eq hj]
  split <;> split <;> omega

section
variable {s : State}

/-- The slot ENQ writes is not among the queued ones (20_memory.md R65 (c)). -/
theorem queuedPlace_ne_advance_wr (hi : IndicesOk s) {k : Nat} (hk : k < queueCount s) :
    (s.rd + 1 + k) % s.capacity ≠ advance s.capacity s.wr := by
  obtain ⟨hr, hw⟩ := hi
  rw [queueCount_eq s hr hw] at hk
  rw [advance_eq hw, mod_of_lt_two_mul (by split at hk <;> omega)]
  split at hk <;> split <;> split <;> omega

/-- Publishing the next index makes the queue one entry longer (42_event_queue.md R152). -/
theorem queueCount_publish (hi : IndicesOk s) (hf : ¬ QueueFull s) :
    queueCount { s with wr := advance s.capacity s.wr } = queueCount s + 1 := by
  obtain ⟨hr, hw⟩ := hi
  rw [queueCount_eq s hr hw, queueCount_eq { s with wr := advance s.capacity s.wr } hr (advance_lt (by omega))]
  simp only [QueueFull, advance_eq hw] at hf ⊢
  split at hf <;> rename_i h <;> simp only [h, if_true, if_false] <;> split <;> split <;> omega

/-- The newest entry's place is the one just published. -/
theorem newestPlace (hi : IndicesOk s) : (s.rd + 1 + queueCount s) % s.capacity = advance s.capacity s.wr := by
  obtain ⟨hr, hw⟩ := hi
  rw [queueCount_eq s hr hw, advance_eq hw, mod_of_lt_two_mul (by split <;> omega)]
  split <;> split <;> split <;> omega

/-- Taking an entry makes the queue one shorter (42_event_queue.md R155). -/
theorem queueCount_take (hi : IndicesOk s) (hq : ¬ QueueEmpty s) :
    queueCount { s with rd := advance s.capacity s.rd } + 1 = queueCount s := by
  obtain ⟨hr, hw⟩ := hi
  rw [queueCount_eq s hr hw, queueCount_eq { s with rd := advance s.capacity s.rd } (advance_lt (by omega)) hw]
  simp only [QueueEmpty, advance_eq hr] at hq ⊢
  split <;> split <;> split <;> omega

/-- After an entry is taken, each of the others is one place nearer. -/
theorem queuedPlace_take (c r k : Nat) : (advance c r + 1 + k) % c = (r + 1 + (k + 1)) % c := by
  rw [advance, Nat.add_assoc, Nat.mod_add_mod]
  congr 1
  omega

/-- The oldest entry stands after `rd`. -/
theorem oldest_legal (h : Inv s) (hq : ¬ QueueEmpty s) : SlotLegal s (advance s.capacity s.rd) := by
  obtain ⟨hr, hw⟩ := h.indices
  have hpos : 0 < queueCount s := Nat.pos_of_ne_zero fun h0 => hq ((queueCount_eq_zero_iff s hr hw).1 h0)
  exact h.queue 0 hpos

end

end Sys2Proof.Machine
end

section
/-! SUPPORT. What the invariant says of each phase of the two operations in progress, one equivalence a phase. -/

namespace Sys2Proof.Machine

variable {s : State}

/-- What every phase from EQ1 on rests on: a legal entry is being enqueued while Enabled (42_event_queue.md R161). -/
def Enqueueable (s : State) (r : Report) : Prop :=
  s.mode = .enabled ∧ Entry.legal s.channels (reportEntry r) = true

theorem producerOk_eq1_iff {r : Report} (h : s.producer = .eq1 r) : ProducerOk s ↔ Enqueueable s r := by
  simp [ProducerOk, Enqueueable, h]

theorem producerOk_eq2_iff {r : Report} {nxt : Nat} (h : s.producer = .eq2 r nxt) :
    ProducerOk s ↔ Enqueueable s r ∧ nxt = advance s.capacity s.wr ∧ nxt ≠ s.rd := by
  simp [ProducerOk, Enqueueable, h, and_assoc]

theorem producerOk_eq3_iff {r : Report} {nxt : Nat} (h : s.producer = .eq3 r nxt) :
    ProducerOk s ↔
      Enqueueable s r ∧ (nxt = advance s.capacity s.wr ∧ nxt ≠ s.rd) ∧ slotRead s nxt = some (reportEntry r) := by
  simp [ProducerOk, Enqueueable, h, and_assoc]

theorem producerOk_answered_iff {r : Report} {ok : Bool} (h : s.producer = .answered r ok) :
    ProducerOk s ↔ Enqueueable s r := by
  simp [ProducerOk, Enqueueable, h]

theorem consumerOk_fn2_iff (h : s.consumer = .fn2) : ConsumerOk s ↔ s.epBusy = false := by simp [ConsumerOk, h]

theorem consumerOk_fn3_iff (h : s.consumer = .fn3) : ConsumerOk s ↔ Draining s := by simp [ConsumerOk, h]

theorem consumerOk_dq1_iff (h : s.consumer = .dq1) : ConsumerOk s ↔ Draining s ∧ Room s := by simp [ConsumerOk, h]

theorem consumerOk_dq2_iff (h : s.consumer = .dq2) :
    ConsumerOk s ↔ Draining s ∧ Room s ∧ ¬ QueueEmpty s := by
  simp [ConsumerOk, h]

theorem consumerOk_dq3_iff {nxt : Nat} (h : s.consumer = .dq3 nxt) :
    ConsumerOk s ↔ Draining s ∧ Room s ∧ nxt = s.rd ∧ SlotLegal s nxt := by
  simp [ConsumerOk, h]

theorem consumerOk_write_iff {e : Entry} (h : s.consumer = .write e) :
    ConsumerOk s ↔ Draining s ∧ Room s ∧ Entry.legal s.channels e = true := by
  simp [ConsumerOk, h]

theorem consumerOk_fn4_iff (h : s.consumer = .fn4) : ConsumerOk s ↔ Draining s := by simp [ConsumerOk, h]

end Sys2Proof.Machine
end

section
/-! SUPPORT. The block of bytes a drain has placed in the transmit buffer (spec/43_packetizer.md R172). -/

namespace Sys2Proof.Machine

variable {s : State}

/-- A written block has its length. -/
theorem txBlock_length {n : Nat} {bytes : List Byte} (h : txBlock s n = some bytes) : bytes.length = n :=
  ((Memory.block_eq_some_iff n s.tx 0 bytes).1 h).1

/-- A packet write appends its bytes to the block before it (R172). -/
theorem txBlock_appendPacket {bytes : List Byte} (p : Packet) (h : txBlock s s.txn = some bytes) :
    txBlock (appendPacket p s) (appendPacket p s).txn = some (bytes ++ packetBytes p) := by
  obtain ⟨hl, hr⟩ := (Memory.block_eq_some_iff _ _ _ _).1 h
  refine (Memory.block_eq_some_iff _ _ _ _).2 ⟨by simp [hl, Config.packetBytes], fun i hi => ?_⟩
  rw [appendPacket_tx, Memory.read_writes, packetBytes_length]
  simp only [appendPacket_txn, Config.packetBytes, Nat.zero_add] at hi ⊢
  by_cases hlt : i < s.txn
  · rw [if_neg (by omega), List.getElem?_append_left (by omega)]
    simpa using hr i hlt
  · rw [if_pos (by omega), List.getElem?_append_right (by omega), hl]

/-- A drain goes on after a packet write. -/
theorem Draining.appendPacket (h : Draining s) (p : Packet) : Draining (appendPacket p s) := by
  obtain ⟨hb, hw⟩ := h
  obtain ⟨bytes, hbytes⟩ := Option.isSome_iff_exists.1 hw
  exact ⟨hb, by rw [txBlock_appendPacket p hbytes]; rfl⟩

end Sys2Proof.Machine
end

section
/-! SUPPORT. How each update an operation is made of keeps the invariant, one rule an update. A rule about a memory or
an index also moves its agent's phase, since the two change in one micro-step; an operation taken whole uses it with
the phase it has. -/

namespace Sys2Proof.Machine

variable {s : State}

/-- Every controller number fits 7 bits (00_scope.md R7). -/
theorem Inv.channels_le (h : Inv s) : s.channels ≤ Config.maxChannels := by
  obtain ⟨-, hn, -⟩ := h.params
  exact hn

/-- The invariant reads neither the statuses, the bus's answers nor `ls`. -/
theorem Inv.unread (h : Inv s) {ls : Option (BitVec 14)} {ps ts : Status} {ea da : Option AnswerWord} :
    Inv { s with ls := ls, pstat := ps, tstat := ts, enqAnswer := ea, deqAnswer := da } :=
  { h with }

/-- The producer's phase moves to one whose part of the invariant holds; ENQ's answer is given with it. -/
theorem Inv.withProducer (h : Inv s) {p : ProducerPhase} {ea : Option AnswerWord}
    (hp : ProducerOk { s with producer := p }) : Inv { s with enqAnswer := ea, producer := p } :=
  { h with producer := hp }

/-- The consumer's phase moves to one whose part of the invariant holds; DEQ's answer is given with it. -/
theorem Inv.withConsumer (h : Inv s) {c : ConsumerPhase} {da : Option AnswerWord}
    (hc : ConsumerOk { s with consumer := c }) : Inv { s with deqAnswer := da, consumer := c } :=
  { h with consumer := hc }

/-- A status report keeps the invariant. -/
theorem Inv.setStatus (h : Inv s) (p : Port) (c : Status) : Inv (setStatus p c s) := by
  cases p <;> exact h.unread

/-! ### What one agent's moves leave of the other's phase (20_memory.md R65) -/

/-- Of the producer's moves a consumer's phase needs only that the queue does not become empty and that the slot at
`rd` stays legal. -/
theorem ConsumerOk.of_producer (h : ConsumerOk s) {w : Nat} {m : List (Nat × Entry)} {p : ProducerPhase}
    (hq : s.rd ≠ s.wr → s.rd ≠ w) (hl : SlotLegal s s.rd → SlotLegal { s with slots := m } s.rd) :
    ConsumerOk { s with wr := w, slots := m, producer := p } := by
  cases hc : s.consumer with
  | dq2 =>
    simp only [ConsumerOk, hc] at h ⊢
    obtain ⟨hd, hr, hne⟩ := h
    exact ⟨hd, hr, hq hne⟩
  | dq3 nxt =>
    simp only [ConsumerOk, hc] at h ⊢
    obtain ⟨hd, hr, rfl, hlegal⟩ := h
    exact ⟨hd, hr, rfl, hl hlegal⟩
  | idle | fn1 | fn2 | fn3 | dq1 | write | fn4 => simp only [ConsumerOk, hc] at h ⊢ <;> exact h

/-- Of the consumer's moves a producer's phase needs only that the index after `wr` does not become `rd`. -/
theorem ProducerOk.of_consumer (h : ProducerOk s) {r : Nat} {c : ConsumerPhase}
    (hf : advance s.capacity s.wr ≠ r) : ProducerOk { s with rd := r, consumer := c } := by
  cases hp : s.producer with
  | eq2 rep nxt =>
    simp only [ProducerOk, hp] at h ⊢
    obtain ⟨hm, hl, rfl, -⟩ := h
    exact ⟨hm, hl, rfl, hf⟩
  | eq3 rep nxt =>
    simp only [ProducerOk, hp] at h ⊢
    obtain ⟨hm, hl, rfl, -, hs⟩ := h
    exact ⟨hm, hl, rfl, hf, hs⟩
  | idle | sampled | eq1 | answered => simp only [ProducerOk, hp] at h ⊢ <;> exact h

/-! ### The producer's updates -/

/-- `lrv` is read by the invariant for its length alone. -/
theorem Inv.lrvWrite (h : Inv s) (i : Nat) (v : BitVec 7) : Inv (lrvWrite i v s) := by
  have hn : (Machine.lrvWrite i v s).channels = s.channels := by simp [State.channels]
  exact
    { h with
      params := by rw [ParamsOk, hn]; exact h.params
      queue := by simp only [QueueOk, SlotLegal, hn]; exact h.queue
      producer := by simp only [ProducerOk, hn]; exact h.producer
      consumer := by simp only [ConsumerOk, SlotLegal, hn]; exact h.consumer }

/-- Smoothing stays in the expanded range (41_pitchbend.md R139). -/
theorem smooth_range {sm : Int} (h : 0 ≤ sm ∧ sm ≤ 16380) (raw : RawSample) :
    0 ≤ smooth sm raw ∧ smooth sm raw ≤ 16380 := by
  have hraw := raw.toNat_lt
  rw [smooth_eq]
  split
  · rcases Int.lt_or_le (4 * (raw.toNat : Int) - sm) 0 with hd | hd
    · rw [tdiv_neg hd]; omega
    · rw [tdiv_nonneg hd]; omega
  · exact h

theorem Inv.smooth (h : Inv s) (raw : RawSample) : Inv { s with sm := smooth s.sm raw } :=
  { h with sm := smooth_range h.sm raw }

/-- EQ2: the slot written is neither queued nor the one the consumer reads (20_memory.md R65 (c)). -/
theorem Inv.writeSlot (h : Inv s) {e : Entry} {p : ProducerPhase} (hf : ¬ QueueFull s)
    (hp : ProducerOk { slotWrite (advance s.capacity s.wr) e s with producer := p }) :
    Inv { slotWrite (advance s.capacity s.wr) e s with producer := p } := by
  have hother : ∀ i, i ≠ advance s.capacity s.wr → SlotLegal s i →
      SlotLegal (slotWrite (advance s.capacity s.wr) e s) i := fun i hi hl => by
    rw [SlotLegal, slotRead, slotWrite_slots, Memory.read_write_other _ _ _ _ hi]
    exact hl
  obtain ⟨hsw, hsl, htx⟩ := h.memories
  obtain ⟨hsw', hsl'⟩ := slotWrite_canonical e hsw hsl (advance_lt h.capacity_pos)
  exact
    { h with
      memories := ⟨hsw', hsl', htx⟩
      queue := fun k hk => hother _ (queuedPlace_ne_advance_wr h.indices hk) (h.queue k hk)
      producer := hp
      consumer := h.consumer.of_producer id (hother s.rd (Ne.symm hf)) }

/-- EQ3: the entry published is the legal one just written, and an empty queue is empty no more (42_event_queue.md
R152). -/
theorem Inv.publish (h : Inv s) {p : ProducerPhase} {ea : Option AnswerWord} (hm : s.mode = .enabled)
    (hf : ¬ QueueFull s) (hl : SlotLegal s (advance s.capacity s.wr))
    (hp : ProducerOk { s with wr := advance s.capacity s.wr, producer := p }) :
    Inv { s with wr := advance s.capacity s.wr, enqAnswer := ea, producer := p } :=
  { h with
    indices := ⟨h.indices.1, advance_lt h.capacity_pos⟩
    disabled := fun hd => by cases hm.symm.trans hd
    queue := fun k hk => by
      have hk' : k < queueCount s + 1 := Nat.lt_of_lt_of_eq hk (queueCount_publish h.indices hf)
      rcases Nat.lt_succ_iff_lt_or_eq.1 hk' with hlt | rfl
      · exact h.queue k hlt
      · exact (newestPlace h.indices).symm ▸ hl
    producer := hp
    consumer := h.consumer.of_producer (p := p) (fun _ => Ne.symm hf) id }

/-! ### The consumer's updates -/

/-- DQ2: the slot freed is not the one the producer writes (20_memory.md R65 (c)). -/
theorem Inv.take (h : Inv s) {c : ConsumerPhase} {da : Option AnswerWord} (hq : ¬ QueueEmpty s)
    (hc : ConsumerOk { s with rd := advance s.capacity s.rd, consumer := c }) :
    Inv { s with rd := advance s.capacity s.rd, deqAnswer := da, consumer := c } := by
  have hne : advance s.capacity s.wr ≠ advance s.capacity s.rd := fun he =>
    hq ((advance_inj h.indices.2 h.indices.1).1 he).symm
  exact
    { h with
      indices := ⟨advance_lt h.capacity_pos, h.indices.2⟩
      disabled := fun hd => absurd (h.disabled hd) hq
      queue := fun k hk => by
        have hk' : k + 1 < queueCount s := by rw [← queueCount_take h.indices hq]; exact Nat.succ_lt_succ hk
        exact (queuedPlace_take s.capacity s.rd k).symm ▸ h.queue (k + 1) hk'
      producer := h.producer.of_consumer (c := c) hne
      consumer := hc }

/-- FN2: with the endpoint idle the buffer may be emptied (43_packetizer.md R178). -/
theorem Inv.clearTxn (h : Inv s) {c : ConsumerPhase} (hb : s.epBusy = false)
    (hc : ConsumerOk { s with txn := 0, consumer := c }) : Inv { s with txn := 0, consumer := c } :=
  { h with
    txn := ⟨rfl, Nat.zero_le _⟩
    consumer := hc
    inFlight := fun hbusy => by cases hb.symm.trans hbusy }

/-- A packet write with the endpoint idle, where the packet fits (43_packetizer.md R172, R175). -/
theorem Inv.appendPacket (h : Inv s) {p : Packet} {c : ConsumerPhase} (hb : s.epBusy = false) (hr : Room s)
    (hc : ConsumerOk { appendPacket p s with consumer := c }) :
    Inv { appendPacket p s with consumer := c } := by
  obtain ⟨hsw, hsl, htw, htl⟩ := h.memories
  obtain ⟨htw', htl'⟩ := appendPacket_canonical p htw htl hr
  exact
    { h with
      memories := ⟨hsw, hsl, htw', htl'⟩
      txn := ⟨(Nat.add_mod_right s.txn 4).trans h.txn.1, hr⟩
      consumer := hc
      inFlight := fun hbusy => by cases hb.symm.trans hbusy }

/-- SUBMIT: the transfer is the block of the buffer, of a legal length (43_packetizer.md R176, R177). -/
theorem Inv.submitted (h : Inv s) {bytes : List Byte} (h0 : s.txn ≠ 0)
    (hbytes : txBlock s s.txn = some bytes) :
    Inv { s with
      txlog := s.txlog ++ [{ bytes := bytes, len := s.txn, short := decide (s.txn ≠ 64) }]
      epBusy := true
      consumer := .idle } :=
  { h with
    transfers := fun t ht => by
      rcases List.mem_append.1 ht with ht | ht
      · exact h.transfers t ht
      · cases List.mem_singleton.1 ht
        exact ⟨txBlock_length hbytes, h.txn.1, Nat.pos_of_ne_zero h0, h.txn.2, rfl⟩
    consumer := consumerOk_idle rfl
    inFlight := fun _ => by
      rw [List.getLast?_concat, Option.any_some, beq_self_eq_true, Bool.true_and]
      exact beq_iff_eq.2 hbytes }

/-! ### The mode and the environment -/

/-- ENABLE with no ENQ in progress (44_mode_control.md R191, R193). -/
theorem Inv.enable (h : Inv s) (hp : s.producer = .idle) : Inv { s with mode := .enabled } :=
  { h with
    disabled := fun hd => by cases hd
    producer := producerOk_idle hp }

/-- DISABLE at a boundary of both ports: the queue it leaves is empty (44_mode_control.md R192, R193). -/
theorem Inv.disable (h : Inv s) (hp : s.producer = .idle) (hc : s.consumer = .idle) :
    Inv { s with mode := .disabled, rd := s.wr } :=
  { h with
    indices := ⟨h.indices.2, h.indices.2⟩
    disabled := fun _ => rfl
    queue := fun k hk => by
      rw [(queueCount_eq_zero_iff { s with mode := .disabled, rd := s.wr } h.indices.2 h.indices.2).2 rfl] at hk
      cases hk
    producer := producerOk_idle hp
    consumer := consumerOk_idle hc }

/-- TRANSFER_DONE: no drain runs while a transfer is in flight (43_packetizer.md R181, R184). -/
theorem Inv.clearBusy (h : Inv s) (hb : s.epBusy = true) : Inv { s with epBusy := false } :=
  { h with
    consumer := (consumer_of_busy h.consumer hb).elim (fun hc => consumerOk_idle hc) fun hc => consumerOk_fn1 hc
    inFlight := fun hbusy => by cases hbusy }

/-- RESET, for parameters in range (10_state.md R39, R40). -/
theorem Inv.resetWith {n c : Nat}
    (hp : 1 ≤ n ∧ n ≤ Config.maxChannels ∧ Config.minCapacity ≤ c ∧ c ≤ Config.maxCapacity) :
    Inv (State.resetWith n c) where
  params := by
    rw [ParamsOk, State.channels, resetWith_lrv, List.length_replicate]
    exact hp
  indices := by
    obtain ⟨-, -, hc, -⟩ := hp
    exact ⟨Nat.lt_of_lt_of_le Nat.two_pos hc, Nat.lt_of_lt_of_le Nat.two_pos hc⟩
  memories := ⟨rfl, List.forall_mem_nil _, rfl, List.forall_mem_nil _⟩
  txn := ⟨rfl, Nat.zero_le _⟩
  sm := by simp [SmOk, Config.pbCenter]
  queue := fun k hk => by simp [queueCount] at hk
  disabled := fun _ => rfl
  producer := producerOk_idle rfl
  consumer := consumerOk_idle rfl
  transfers := List.forall_mem_nil _
  inFlight := fun hb => by cases hb
  schedule := rfl

end Sys2Proof.Machine
end

section
/-! SUPPORT. From a state of the invariant every operation of a port completes in a state of the invariant, whole or by
its next micro-step. Completion and the invariant go together: what the invariant says of the queue and of the buffer is
why no read fails. -/

namespace Sys2Proof.Machine

variable {s : State}

/-- An operation that completes, in a state of the invariant. -/
def CompletesInv (o : Result) : Prop := ∃ t, o = .next t ∧ Inv t

theorem completesInv_next {t : State} (h : Inv t) : CompletesInv (.next t) := ⟨t, rfl, h⟩

/-! ### The filters' own lines -/

/-- What the filters' own lines leave: a state of the invariant, and only a report that may be enqueued. -/
def FrontOk (front : State × Option Report) : Prop := Inv front.1 ∧ ∀ r ∈ front.2, Enqueueable front.1 r

theorem frontOk_ended (h : Inv s) : FrontOk (s, none) := ⟨h, fun _ hr => by cases hr⟩

theorem frontOk_report (h : Inv s) {r : Report} (hr : Enqueueable s r) : FrontOk (s, some r) :=
  ⟨h, fun _ hr' => Option.some.inj hr' ▸ hr⟩

theorem quantizerFront_ok (h : Inv s) (res : SamplerResult) (ch : BitVec 8) (raw : RawSample) :
    FrontOk (quantizerFront res ch raw s) := by
  rcases quantizerFront_cases res ch raw s with
    ⟨-, hf⟩ | ⟨-, -, hf⟩ | ⟨-, -, -, hf⟩ | ⟨-, -, -, -, hf⟩ | ⟨hch, -, -, hm, hf⟩ <;> rw [hf]
  · exact frontOk_ended h.unread
  · exact frontOk_ended h.unread
  · exact frontOk_ended h.unread
  · exact frontOk_ended (h.lrvWrite ch.toNat (candidate raw)).unread
  · exact frontOk_report h ⟨hm, legal_control _ hch⟩

theorem pitchBendFront_ok (h : Inv s) (res : SamplerResult) (raw : RawSample) :
    FrontOk (pitchBendFront res raw s) := by
  rcases pitchBendFront_cases res raw s with ⟨-, hf⟩ | ⟨-, hf⟩ | ⟨-, hm, -, hf⟩ | ⟨-, -, hf⟩ <;> rw [hf]
  · exact frontOk_ended h.unread
  · exact frontOk_ended h.unread
  · exact frontOk_report (h.smooth raw) ⟨hm, legal_pitchBend _ _⟩
  · exact frontOk_ended (h.smooth raw).unread

theorem sampleFront_ok (h : Inv s) (op : SampleOp) : FrontOk (sampleFront op s) := by
  cases op with
  | control res ch raw => exact quantizerFront_ok h res ch raw
  | pitchBend res raw => exact pitchBendFront_ok h res raw

/-- The filters' own lines do not move the producer's phase. -/
theorem sampleFront_producer (op : SampleOp) (s : State) : (sampleFront op s).1.producer = s.producer := by
  cases op with
  | control res ch raw =>
    rcases quantizerFront_cases res ch raw s with
      ⟨-, hf⟩ | ⟨-, -, hf⟩ | ⟨-, -, -, hf⟩ | ⟨-, -, -, -, hf⟩ | ⟨-, -, -, -, hf⟩ <;> simp only [sampleFront, hf]
  | pitchBend res raw =>
    rcases pitchBendFront_cases res raw s with ⟨-, hf⟩ | ⟨-, hf⟩ | ⟨-, -, -, hf⟩ | ⟨-, -, hf⟩ <;>
      simp only [sampleFront, hf]

theorem FrontOk.afterFront {front : State × Option Report} (h : FrontOk front) : Inv (afterFront front) := by
  obtain ⟨s, _ | r⟩ := front
  · exact h.1.withProducer (producerOk_idle rfl)
  · exact h.1.withProducer ((producerOk_eq1_iff rfl).2 (h.2 r rfl))

/-- The cached value and the status written with ENQ's answer keep the invariant. -/
theorem Inv.settle (h : Inv s) (r : Report) (ok : Bool) : Inv (settle r ok s) := by
  cases ok with
  | false => rw [settle_full]; exact h.unread
  | true =>
    cases r with
    | control ch cand => exact (h.lrvWrite ch.toNat cand).unread
    | pitchBend v => exact h.unread

/-- ENQ as one step of a legal entry while Enabled (42_event_queue.md R152, R161). -/
theorem Inv.enqueue (h : Inv s) {r : Report} (hp : s.producer = .idle) (hr : Enqueueable s r) :
    Inv (enqueue (reportEntry r) s).1 := by
  rcases enqueue_cases (reportEntry r) s with ⟨-, he⟩ | ⟨hf, he⟩ <;> rw [he]
  · exact h.unread
  · have hw : Inv (slotWrite (advance s.capacity s.wr) (reportEntry r) s) := h.writeSlot hf (producerOk_idle hp)
    have hl : SlotLegal (slotWrite (advance s.capacity s.wr) (reportEntry r) s) (advance s.capacity s.wr) :=
      slotLegal_iff.2 ⟨_, Memory.read_write_same _ _ _, hr.2⟩
    exact hw.publish hr.1 hf hl (producerOk_idle hp)

theorem FrontOk.finishSample {front : State × Option Report} (h : FrontOk front)
    (hp : front.1.producer = .idle) : Inv (finishSample front) := by
  obtain ⟨s, _ | r⟩ := front
  · exact h.1
  · exact (h.1.enqueue hp (h.2 r rfl)).settle r _

/-! ### The producer's micro-steps -/

theorem producerStep_completes (h : Inv s) : CompletesInv (producerStep s) := by
  have hok := h.producer
  cases hp : s.producer with
  | idle => exact ⟨_, producerStep_idle hp, h⟩
  | sampled op => exact ⟨_, producerStep_sampled hp, (sampleFront_ok h op).afterFront⟩
  | eq1 r =>
    have hr := (producerOk_eq1_iff hp).1 hok
    by_cases hf : QueueFull s
    · exact ⟨_, producerStep_eq1_full hp hf, h.withProducer ((producerOk_answered_iff rfl).2 hr)⟩
    · exact ⟨_, producerStep_eq1_room hp hf, h.withProducer ((producerOk_eq2_iff rfl).2 ⟨hr, rfl, hf⟩)⟩
  | eq2 r nxt =>
    obtain ⟨hr, rfl, hf⟩ := (producerOk_eq2_iff hp).1 hok
    exact ⟨_, producerStep_eq2 hp,
      h.writeSlot hf ((producerOk_eq3_iff rfl).2 ⟨hr, ⟨rfl, hf⟩, Memory.read_write_same _ _ _⟩)⟩
  | eq3 r nxt =>
    obtain ⟨hr, ⟨rfl, hf⟩, hs⟩ := (producerOk_eq3_iff hp).1 hok
    exact ⟨_, producerStep_eq3 hp,
      h.publish hr.1 hf (slotLegal_iff.2 ⟨_, hs, hr.2⟩) ((producerOk_answered_iff rfl).2 hr)⟩
  | answered r ok => exact ⟨_, producerStep_answered hp, (h.settle r ok).withProducer (producerOk_idle rfl)⟩

/-! ### The consumer's micro-steps -/

/-- FN4 with nothing produced (43_packetizer.md R178). -/
theorem finishDrain_nothing (h0 : s.txn = 0) : finishDrain s = .next (setStatus .T .noTransfer s) := if_pos h0

/-- FN4 with a written block (43_packetizer.md R178). -/
theorem finishDrain_submit {bytes : List Byte} (h0 : s.txn ≠ 0) (hb : txBlock s s.txn = some bytes) :
    finishDrain s = .next (setStatus .T .submitted { s with
      txlog := s.txlog ++ [{ bytes := bytes, len := s.txn, short := decide (s.txn ≠ 64) }]
      epBusy := true }) := by
  rw [finishDrain, if_neg h0, submit_eq hb, andThen_next]

/-- FN4 of a drain completes: every byte it submits was written. -/
theorem finishDrain_completes (h : Inv s) (hd : Draining s) :
    ∃ t, finishDrain s = .next t ∧ t.consumer = s.consumer ∧ Inv { t with consumer := .idle } := by
  by_cases h0 : s.txn = 0
  · exact ⟨_, finishDrain_nothing h0, rfl, (h.setStatus .T .noTransfer).withConsumer (consumerOk_idle rfl)⟩
  · obtain ⟨bytes, hb⟩ := Option.isSome_iff_exists.1 hd.2
    exact ⟨_, finishDrain_submit h0 hb, rfl, (h.submitted h0 hb).setStatus .T .submitted⟩

theorem consumerStep_completes (h : Inv s) : CompletesInv (consumerStep s) := by
  have hok := h.consumer
  cases hc : s.consumer with
  | idle => exact ⟨_, consumerStep_idle hc, h⟩
  | fn1 =>
    cases hb : s.epBusy with
    | true => exact ⟨_, consumerStep_fn1_busy hc hb, (h.setStatus .T .endpointBusy).withConsumer (consumerOk_idle rfl)⟩
    | false => exact ⟨_, consumerStep_fn1_idle hc hb, h.withConsumer ((consumerOk_fn2_iff rfl).2 hb)⟩
  | fn2 =>
    have hb := (consumerOk_fn2_iff hc).1 hok
    exact ⟨_, consumerStep_fn2 hc, h.clearTxn hb ((consumerOk_fn3_iff rfl).2 ⟨hb, rfl⟩)⟩
  | fn3 =>
    have hd := (consumerOk_fn3_iff hc).1 hok
    by_cases hr : Room s
    · exact ⟨_, consumerStep_fn3_room hc hr, h.withConsumer ((consumerOk_dq1_iff rfl).2 ⟨hd, hr⟩)⟩
    · exact ⟨_, consumerStep_fn3_noRoom hc hr, h.withConsumer ((consumerOk_fn4_iff rfl).2 hd)⟩
  | dq1 =>
    obtain ⟨hd, hr⟩ := (consumerOk_dq1_iff hc).1 hok
    by_cases hq : QueueEmpty s
    · exact ⟨_, consumerStep_dq1_empty hc hq, h.withConsumer ((consumerOk_fn4_iff rfl).2 hd)⟩
    · exact ⟨_, consumerStep_dq1_entry hc hq, h.withConsumer ((consumerOk_dq2_iff rfl).2 ⟨hd, hr, hq⟩)⟩
  | dq2 =>
    obtain ⟨hd, hr, hq⟩ := (consumerOk_dq2_iff hc).1 hok
    exact ⟨_, consumerStep_dq2 hc, h.take hq ((consumerOk_dq3_iff rfl).2 ⟨hd, hr, rfl, oldest_legal h hq⟩)⟩
  | dq3 nxt =>
    obtain ⟨hd, hr, -, hl⟩ := (consumerOk_dq3_iff hc).1 hok
    obtain ⟨e, he, hle⟩ := slotLegal_iff.1 hl
    exact ⟨_, consumerStep_dq3 hc he, h.withConsumer ((consumerOk_write_iff rfl).2 ⟨hd, hr, hle⟩)⟩
  | write e =>
    obtain ⟨hd, hr, hle⟩ := (consumerOk_write_iff hc).1 hok
    obtain ⟨p, hp, -⟩ := entryPacket_of_legal h.channels_le hle
    exact ⟨_, consumerStep_write hc hp, h.appendPacket hd.1 hr ((consumerOk_fn3_iff rfl).2 (hd.appendPacket p))⟩
  | fn4 =>
    obtain ⟨_, ht, -, hi⟩ := finishDrain_completes h ((consumerOk_fn4_iff hc).1 hok)
    exact ⟨_, by rw [consumerStep_fn4 hc, ht, andThen_next], hi⟩

/-- No micro-step of an operation in progress stops, and each keeps the invariant. -/
theorem microStep_completes (h : Inv s) (p : Port) : CompletesInv (microStep p s) := by
  cases p with
  | P => exact producerStep_completes h
  | T => exact consumerStep_completes h

/-! ### The operations as one step -/

/-- What the drain loop taken whole keeps: it runs with no phase of its own. -/
def DrainOk (s : State) : Prop := Inv s ∧ s.consumer = .idle ∧ Draining s

/-- The drain loop completes: each entry it takes was written and is legal (43_packetizer.md R172, R187). -/
theorem drain_completes (k : Nat) (h : DrainOk s) : ∃ t, drain k s = .next t ∧ DrainOk t := by
  induction k generalizing s with
  | zero => exact ⟨s, rfl, h⟩
  | succ k ih =>
    obtain ⟨hi, hc, hd⟩ := h
    by_cases hr : Room s
    · by_cases hq : QueueEmpty s
      · exact ⟨_, drain_empty hr hq, hi.unread, hc, hd⟩
      · obtain ⟨e, he, hle⟩ := slotLegal_iff.1 (oldest_legal hi hq)
        obtain ⟨p, hp, -⟩ := entryPacket_of_legal hi.channels_le hle
        rw [drain_round hr hq he hp]
        have htake : Inv { s with rd := advance s.capacity s.rd, deqAnswer := some (answerWord true e.word) } :=
          hi.take hq (consumerOk_idle hc)
        exact ih ⟨htake.appendPacket hd.1 hr (consumerOk_idle hc), hc, Draining.appendPacket hd p⟩
    · exact ⟨s, drain_noRoom hr, hi, hc, hd⟩

/-- FRAME_NOTIFY taken whole completes (43_packetizer.md R178). -/
theorem execFrameNotify_completes (h : Inv s) (hc : s.consumer = .idle) : CompletesInv (execFrameNotify s) := by
  by_cases hb : s.epBusy = true
  · exact ⟨_, if_pos hb, h.setStatus .T .endpointBusy⟩
  · have hidle : s.epBusy = false := Bool.eq_false_of_not_eq_true hb
    have h0 : DrainOk { s with txn := 0 } := ⟨h.clearTxn hidle (consumerOk_idle hc), hc, hidle, rfl⟩
    obtain ⟨u, hu, hi, huc, hd⟩ := drain_completes Config.maxEventsPerDrain h0
    obtain ⟨t, ht, htc, hit⟩ := finishDrain_completes hi hd
    refine ⟨t, by rw [execFrameNotify, if_neg hb, hu, andThen_next, ht], ?_⟩
    rwa [← htc.trans huc] at hit

section
variable {i : Instr} (hcmd : i.isCommand = true) (h : Inv s) (hp : portIdle (operationPort i) s = true)
  (hm : changesMode i = true → portsIdle s = true)
include hcmd h hp hm

/-- Every operation of a port, begun at its boundary and taken whole, completes (44_mode_control.md R193). -/
theorem exec_completes : CompletesInv (exec i s) := by
  cases i with
  | sampleCc res ch raw =>
    have hidle : s.producer = .idle := by simpa [portIdle, operationPort] using hp
    exact completesInv_next ((sampleFront_ok h (.control res ch raw)).finishSample
      ((sampleFront_producer _ s).trans hidle))
  | samplePb res raw =>
    have hidle : s.producer = .idle := by simpa [portIdle, operationPort] using hp
    exact completesInv_next ((sampleFront_ok h (.pitchBend res raw)).finishSample
      ((sampleFront_producer _ s).trans hidle))
  | frameNotify => exact execFrameNotify_completes h (by simpa [portIdle, operationPort] using hp)
  | enable =>
    obtain ⟨hprod, -⟩ := portsIdle_iff.1 (hm rfl)
    exact completesInv_next ((h.enable hprod).setStatus .T .modeOk)
  | disable =>
    obtain ⟨hprod, hcons⟩ := portsIdle_iff.1 (hm rfl)
    exact completesInv_next ((h.disable hprod hcons).setStatus .T .modeOk)
  | enq | deq | pktCc | pktPb => cases hcmd

/-- Beginning an operation by micro-steps enters its first phase, which rests on nothing. -/
theorem beginOperation_completes : CompletesInv (beginOperation i s) := by
  cases i with
  | sampleCc => exact completesInv_next (h.withProducer (producerOk_sampled rfl))
  | samplePb => exact completesInv_next (h.withProducer (producerOk_sampled rfl))
  | frameNotify => exact completesInv_next (h.withConsumer (consumerOk_fn1 rfl))
  | enable => exact exec_completes (i := .enable) hcmd h hp hm
  | disable => exact exec_completes (i := .disable) hcmd h hp hm
  | enq | deq | pktCc | pktPb => cases hcmd

end

end Sys2Proof.Machine
end

section
/-! The invariant along every step (spec/10_state.md R31, R40, 20_memory.md R65, R70): one walk through the events shows
that a step from a state of the invariant either completes in one or stops for a reason that is no failed read. -/

namespace Sys2Proof.Machine

variable {s : State}

/-- An outcome that is a state of the invariant, or a stop other than the three for a slot, a byte or a tag that no
run produces (log 7, 11). -/
def SafeOutcome : Result → Prop
  | .next t => Inv t
  | .fault r => r ≠ .slotNotWritten ∧ r ≠ .byteNotWritten
  | .refused r => ∀ tag, r ≠ .unknownTag tag

theorem CompletesInv.safe {o : Result} (h : CompletesInv o) : SafeOutcome o := by
  obtain ⟨t, rfl, ht⟩ := h
  exact ht

/-- The boundary's own stops are for an occupied port and for a mode change during an operation. -/
theorem atBoundary_safe {i : Instr} {run : State → Result}
    (hrun : portIdle (operationPort i) s = true → (changesMode i = true → portsIdle s = true) →
      CompletesInv (run s)) : SafeOutcome (atBoundary i run s) := by
  rcases atBoundary_cases i run s with ho | ⟨-, -, ho⟩ | ⟨hp, hm, ho⟩ <;> rw [ho]
  · exact fun tag => by simp
  · exact ⟨by decide, by decide⟩
  · exact (hrun hp hm).safe

/-- A word at a port is refused, reported, or runs at its boundary (70_reset_and_hazards.md R240, 30_encoding.md
R93). -/
theorem deliverCommand_safe (h : Inv s) (p : Port) (w : CmdWord) {run : Instr → State → Result}
    (hrun : ∀ i : Instr, i.isCommand = true → portIdle (operationPort i) s = true →
      (changesMode i = true → portsIdle s = true) → CompletesInv (run i s)) :
    SafeOutcome (deliverCommand p w run s) := by
  rcases deliverCommand_cases p w run s with ho | ⟨-, -, ho⟩ | ⟨-, i, hi, ho⟩ <;> rw [ho]
  · exact fun tag => by simp
  · exact h.setStatus p .illegalOp
  · obtain ⟨-, -, hcmd⟩ := decodeCmd_eq_ok hi
    exact atBoundary_safe (hrun i hcmd)

theorem transferDone_safe (h : Inv s) : SafeOutcome (transferDone s) := by
  unfold transferDone
  split
  · exact h.clearBusy ‹_›
  · exact ⟨by decide, by decide⟩

theorem resetStep_safe (h : Inv s) : SafeOutcome (resetStep s) := by
  unfold resetStep
  split
  · exact (Inv.resetWith h.params).withEvents h.schedule
  · exact ⟨by decide, by decide⟩

theorem enterIdle_safe (h : Inv s) : SafeOutcome (enterIdle s) := by
  unfold enterIdle
  split
  · exact h
  · exact ⟨by decide, by decide⟩

theorem transportRead_safe (h : Inv s) (off : Nat) : SafeOutcome (transportRead off s) := by
  unfold transportRead
  split
  · exact h
  · exact ⟨by decide, by decide⟩

/-- Every move of the outside is safe (70_reset_and_hazards.md R250). -/
theorem deliver_safe (h : Inv s) {e : Event} (he : e.external = true) : SafeOutcome (deliver e s) := by
  cases e with
  | command p w => exact deliverCommand_safe h p w fun _ hcmd hp hm => exec_completes hcmd h hp hm
  | present p w => exact deliverCommand_safe h p w fun _ hcmd hp hm => beginOperation_completes hcmd h hp hm
  | micro p => exact (microStep_completes h p).safe
  | transferDone => exact transferDone_safe h
  | reset => exact resetStep_safe h
  | enterIdle => exact enterIdle_safe h
  | transportRead off => exact transportRead_safe h off
  | request | record => cases he

theorem step_safe (h : Inv s) : SafeOutcome (step s) := by
  cases hs : s.events with
  | nil => rw [step_of_empty hs]; exact h
  | cons e rest =>
    obtain ⟨he, hrest⟩ := h.tail hs
    rw [step_of_cons hs]
    exact deliver_safe hrest he

/-- Settles O46: a step from a state of the invariant that completes does so in a state of the invariant. -/
theorem everyStepKeepsTheInvariant : Obligations.EveryStepKeepsTheInvariant := by
  intro s t h hstep
  have hsafe := step_safe h
  rwa [hstep] at hsafe

/-- Settles O48: where a step from a state of the invariant stops, it is for another reason. -/
theorem noStepReadsUnwrittenMemory : Obligations.NoStepReadsUnwrittenMemory := by
  intro s h
  have hsafe := step_safe h
  refine ⟨fun hf => ?_, fun hf => ?_, fun tag hf => ?_⟩ <;> rw [hf] at hsafe
  · exact hsafe.1 rfl
  · exact hsafe.2 rfl
  · exact hsafe tag rfl

/-- Settles O45: the registers after RESET meet the invariant as soon as `N` and `C` are in range, as 4 and 32 are. -/
theorem invariantHoldsAfterReset : Obligations.InvariantHoldsAfterReset := by
  have hall : ∀ n c : Nat, 1 ≤ n → n ≤ 117 → 2 ≤ c → c ≤ 65536 → Inv (State.resetWith n c) :=
    fun _ _ h1 h2 h3 h4 => Inv.resetWith ⟨h1, h2, h3, h4⟩
  exact ⟨hall, hall 4 32 (by decide) (by decide) (by decide) (by decide)⟩

end Sys2Proof.Machine
end

section
/-! SUPPORT. Who writes what (spec/20_memory.md R61): every operation and every micro-step of a port changes only the
state its agent writes. Frames of single fields are read off this. -/

namespace Sys2Proof.Machine

variable {s t u : State}

/-- The state `s` with everything the agent of a port writes taken from `t` (20_memory.md R61). -/
def withOwned (p : Port) (t s : State) : State :=
  match p with
  | .P =>
    { s with
      lrv := t.lrv, sm := t.sm, ls := t.ls, wr := t.wr, slots := t.slots, pstat := t.pstat,
      producer := t.producer, enqAnswer := t.enqAnswer }
  | .T =>
    { s with
      rd := t.rd, tx := t.tx, txn := t.txn, tstat := t.tstat, epBusy := t.epBusy, txlog := t.txlog,
      consumer := t.consumer, deqAnswer := t.deqAnswer }

/-- `t` differs from `s` at most in what the agent of the port writes. -/
def OnlyOwned (p : Port) (s t : State) : Prop := t = withOwned p t s

theorem OnlyOwned.trans {p : Port} (h : OnlyOwned p s t) (h' : OnlyOwned p t u) : OnlyOwned p s u := by
  have hu : withOwned p u t = withOwned p u (withOwned p t s) := congrArg (withOwned p u) h
  cases p <;> exact Eq.trans h' hu

/-- Neither agent writes the mode by an operation that is no mode change. -/
theorem OnlyOwned.mode_eq {p : Port} (h : OnlyOwned p s t) : t.mode = s.mode := by
  have hmode : t.mode = (withOwned p t s).mode := congrArg State.mode h
  cases p <;> exact hmode

/-! ### The producer -/

theorem enqueue_owned (e : Entry) (s : State) : OnlyOwned .P s (enqueue e s).1 := by
  rcases enqueue_cases e s with ⟨-, h⟩ | ⟨-, h⟩ <;> rw [h] <;> rfl

theorem settle_owned (r : Report) (ok : Bool) (s : State) : OnlyOwned .P s (settle r ok s) := by
  cases ok with
  | false => rw [settle_full]; rfl
  | true => cases r <;> rfl

theorem sampleFront_owned (op : SampleOp) (s : State) : OnlyOwned .P s (sampleFront op s).1 := by
  cases op with
  | control res ch raw =>
    rcases quantizerFront_cases res ch raw s with
      ⟨-, h⟩ | ⟨-, -, h⟩ | ⟨-, -, -, h⟩ | ⟨-, -, -, -, h⟩ | ⟨-, -, -, -, h⟩ <;> rw [sampleFront, h] <;> rfl
  | pitchBend res raw =>
    rcases pitchBendFront_cases res raw s with ⟨-, h⟩ | ⟨-, h⟩ | ⟨-, -, -, h⟩ | ⟨-, -, h⟩ <;>
      rw [sampleFront, h] <;> rfl

theorem finishSample_owned (front : State × Option Report) : OnlyOwned .P front.1 (finishSample front) := by
  obtain ⟨s, _ | r⟩ := front
  · rfl
  · exact (enqueue_owned (reportEntry r) s).trans (settle_owned r _ _)

theorem afterFront_owned (front : State × Option Report) : OnlyOwned .P front.1 (afterFront front) := by
  obtain ⟨s, _ | r⟩ := front <;> rfl

theorem producerStep_owned (h : producerStep s = .next t) : OnlyOwned .P s t := by
  cases hp : s.producer with
  | idle => rw [producerStep_idle hp] at h; cases h; rfl
  | sampled op =>
    rw [producerStep_sampled hp] at h
    cases h
    exact (sampleFront_owned op s).trans (afterFront_owned _)
  | eq1 r =>
    by_cases hf : QueueFull s
    · rw [producerStep_eq1_full hp hf] at h; cases h; rfl
    · rw [producerStep_eq1_room hp hf] at h; cases h; rfl
  | eq2 r nxt => rw [producerStep_eq2 hp] at h; cases h; rfl
  | eq3 r nxt => rw [producerStep_eq3 hp] at h; cases h; rfl
  | answered r ok =>
    rw [producerStep_answered hp] at h
    cases h
    exact (settle_owned r ok s).trans rfl

/-! ### The consumer -/

theorem dequeue_owned {o : Option Entry} (h : dequeue s = .next (t, o)) : OnlyOwned .T s t := by
  rcases dequeue_cases h with ⟨-, -, rfl⟩ | ⟨-, e, -, -, rfl⟩ <;> rfl

theorem drain_owned {k : Nat} (h : drain k s = .next t) : OnlyOwned .T s t := by
  induction k generalizing s with
  | zero => cases h; rfl
  | succ k ih =>
    rcases drain_succ_cases h with ⟨-, rfl⟩ | ⟨-, -, rfl⟩ | ⟨-, -, e, p, -, -, hd⟩
    · rfl
    · rfl
    · have hround : OnlyOwned .T s (appendPacket p
          { s with rd := advance s.capacity s.rd, deqAnswer := some (answerWord true e.word) }) := rfl
      exact hround.trans (ih hd)

theorem finishDrain_owned (h : finishDrain s = .next t) : OnlyOwned .T s t := by
  rcases finishDrain_cases h with ⟨-, rfl⟩ | ⟨-, bytes, -, rfl⟩ <;> rfl

theorem recordPacket_owned {p : Packet} (h : recordPacket p s = .next t) : OnlyOwned .T s t := by
  rcases recordPacket_cases p s with ⟨-, hr⟩ | ⟨-, -, hr⟩ | ⟨-, -, hr⟩ <;> rw [hr] at h <;> cases h
  rfl

theorem execFrameNotify_owned (h : execFrameNotify s = .next t) : OnlyOwned .T s t := by
  unfold execFrameNotify at h
  split at h
  · cases h; rfl
  · obtain ⟨u, hd, hf⟩ := andThen_eq_next.1 h
    have hclear : OnlyOwned .T s { s with txn := 0 } := rfl
    exact (hclear.trans (drain_owned hd)).trans (finishDrain_owned hf)

/-- DQ3 goes on with the entry of a written slot (42_event_queue.md R155). -/
theorem dq3_eq_next {nxt : Nat} {e : Entry} (h : dq3 nxt s = .next (t, e)) :
    slotRead s nxt = some e ∧ t = { s with deqAnswer := some (answerWord true e.word) } := by
  unfold dq3 at h
  split at h <;> cases h
  exact ⟨‹_›, rfl⟩

theorem consumerStep_owned (h : consumerStep s = .next t) : OnlyOwned .T s t := by
  cases hc : s.consumer with
  | idle => rw [consumerStep_idle hc] at h; cases h; rfl
  | fn1 =>
    cases hb : s.epBusy with
    | true => rw [consumerStep_fn1_busy hc hb] at h; cases h; rfl
    | false => rw [consumerStep_fn1_idle hc hb] at h; cases h; rfl
  | fn2 => rw [consumerStep_fn2 hc] at h; cases h; rfl
  | fn3 =>
    by_cases hr : Room s
    · rw [consumerStep_fn3_room hc hr] at h; cases h; rfl
    · rw [consumerStep_fn3_noRoom hc hr] at h; cases h; rfl
  | dq1 =>
    by_cases hq : QueueEmpty s
    · rw [consumerStep_dq1_empty hc hq] at h; cases h; rfl
    · rw [consumerStep_dq1_entry hc hq] at h; cases h; rfl
  | dq2 => rw [consumerStep_dq2 hc] at h; cases h; rfl
  | dq3 nxt =>
    simp only [consumerStep, hc] at h
    obtain ⟨⟨u, e⟩, hd, hu⟩ := andThen_eq_next.1 h
    obtain ⟨-, rfl⟩ := dq3_eq_next hd
    cases hu
    rfl
  | write e =>
    simp only [consumerStep, hc] at h
    obtain ⟨p, -, hu⟩ := andThen_eq_next.1 h
    cases hu
    rfl
  | fn4 =>
    rw [consumerStep_fn4 hc] at h
    obtain ⟨u, hf, hu⟩ := andThen_eq_next.1 h
    cases hu
    exact (finishDrain_owned hf).trans rfl

/-! ### Both grains -/

theorem microStep_owned {p : Port} (h : microStep p s = .next t) : OnlyOwned p s t := by
  cases p with
  | P => exact producerStep_owned h
  | T => exact consumerStep_owned h

/-- An operation taken whole, but for the two that change the mode. -/
theorem exec_owned {i : Instr} (hm : changesMode i = false) (h : exec i s = .next t) :
    OnlyOwned (operationPort i) s t := by
  cases i with
  | sampleCc res ch raw =>
    cases h
    exact (sampleFront_owned (.control res ch raw) s).trans (finishSample_owned _)
  | samplePb res raw =>
    cases h
    exact (sampleFront_owned (.pitchBend res raw) s).trans (finishSample_owned _)
  | frameNotify => exact execFrameNotify_owned h
  | enable | disable => cases hm
  | enq tag value => cases h; exact enqueue_owned _ s
  | deq =>
    obtain ⟨⟨u, o⟩, hd, hu⟩ := andThen_eq_next.1 h
    cases hu
    exact dequeue_owned hd
  | pktCc c v => exact recordPacket_owned h
  | pktPb l m => exact recordPacket_owned h

/-- An operation with micro-steps begins by entering its first phase; every other one is taken whole. -/
theorem beginOperation_owned {i : Instr} (hm : changesMode i = false) (h : beginOperation i s = .next t) :
    OnlyOwned (operationPort i) s t := by
  cases i with
  | sampleCc | samplePb | frameNotify => cases h; rfl
  | enable | disable => cases hm
  | enq | deq | pktCc | pktPb =>
    simp only [beginOperation] at h
    exact exec_owned hm h

end Sys2Proof.Machine
end

section
/-! The mode along every step (spec/10_state.md R28, 44_mode_control.md R191, R192). -/

namespace Sys2Proof.Machine

variable {s t : State}

/-- What the words of ENABLE and DISABLE at port `T` do to the mode; anything else leaves it. -/
def ModeResult (s t : State) (p : Port) (w : CmdWord) : Prop :=
  t.mode = s.mode ∨ (t.mode = .enabled ∧ p = .T ∧ w = 0xC0000000#32) ∨
    (t.mode = .disabled ∧ p = .T ∧ w = 0xD0000000#32)

/-- An operation at either grain, told by the word it is encoded as. -/
theorem modeResult_of_run {i : Instr} {run : Instr → State → Result} (hrun : run = exec ∨ run = beginOperation)
    (h : run i s = .next t) : ModeResult s t (operationPort i) (encode i) := by
  cases hm : changesMode i with
  | false =>
    rcases hrun with rfl | rfl
    · exact .inl (exec_owned hm h).mode_eq
    · exact .inl (beginOperation_owned hm h).mode_eq
  | true =>
    cases i with
    | enable => rcases hrun with rfl | rfl <;> cases h <;> exact .inr (.inl ⟨rfl, rfl, by decide⟩)
    | disable => rcases hrun with rfl | rfl <;> cases h <;> exact .inr (.inr ⟨rfl, rfl, by decide⟩)
    | sampleCc | samplePb | frameNotify | enq | deq | pktCc | pktPb => cases hm

theorem deliverCommand_modeResult {p : Port} {w : CmdWord} {run : Instr → State → Result}
    (hrun : run = exec ∨ run = beginOperation) (h : deliverCommand p w run s = .next t) : ModeResult s t p w := by
  rcases deliverCommand_eq_next h with ⟨-, -, rfl⟩ | ⟨-, i, hi, hb⟩
  · exact .inl (setStatus_mode ..)
  · obtain ⟨rfl, rfl, -⟩ := decodeCmd_eq_ok hi
    obtain ⟨-, -, hnext⟩ := atBoundary_eq_next hb
    exact modeResult_of_run hrun hnext

/-- A bus word is a request, never a mode change (30_encoding.md R85). -/
theorem decodeQreq_changesMode {q : QReqWord} {i : Instr} (h : decodeQreq q = .ok i) : changesMode i = false := by
  unfold decodeQreq at h
  split at h
  · cases h
  split at h
  · split at h <;> cases h
    rfl
  split at h
  · split at h <;> cases h
    rfl
  · cases h

/-- A packet record is no mode change (30_encoding.md R89, R90). -/
theorem decodePkt_changesMode {w : PktWord} {i : Instr} (h : decodePkt w = .ok i) : changesMode i = false := by
  unfold decodePkt at h
  split at h
  · cases h
  split at h
  · cases h; rfl
  split at h <;> cases h
  rfl

/-- Every event but RESET and a command word leaves the mode. -/
theorem deliver_mode {e : Event} (h : deliver e s = .next t) :
    t.mode = s.mode ∨ e = .reset ∨ ∃ p w, (e = .command p w ∨ e = .present p w) ∧ ModeResult s t p w := by
  cases e with
  | command p w => exact .inr (.inr ⟨p, w, .inl rfl, deliverCommand_modeResult (.inl rfl) h⟩)
  | present p w => exact .inr (.inr ⟨p, w, .inr rfl, deliverCommand_modeResult (.inr rfl) h⟩)
  | micro p => exact .inl (microStep_owned h).mode_eq
  | transferDone =>
    simp only [deliver, transferDone] at h
    split at h <;> cases h
    exact .inl rfl
  | reset => exact .inr (.inl rfl)
  | enterIdle =>
    simp only [deliver, enterIdle] at h
    split at h <;> cases h
    exact .inl rfl
  | transportRead off =>
    simp only [deliver, transportRead] at h
    split at h <;> cases h
    exact .inl rfl
  | request q =>
    rcases deliverRequest_eq_next h with ⟨-, rfl⟩ | ⟨i, hi, hb⟩
    · exact .inl rfl
    · obtain ⟨-, -, hnext⟩ := atBoundary_eq_next hb
      exact .inl (exec_owned (decodeQreq_changesMode hi) hnext).mode_eq
  | record w =>
    obtain ⟨i, hi, hb⟩ := deliverRecord_eq_next h
    obtain ⟨-, -, hnext⟩ := atBoundary_eq_next hb
    exact .inl (exec_owned (decodePkt_changesMode hi) hnext).mode_eq

/-- Settles O51: every other event leaves the mode, since neither agent writes it. -/
theorem modeIsWrittenOnlyByItsOperations : Obligations.ModeIsWrittenOnlyByItsOperations := by
  intro s t h hne
  cases he : s.events with
  | nil =>
    rw [step_of_empty he] at h
    cases h
    exact absurd rfl hne
  | cons e rest =>
    rw [step_of_cons he] at h
    refine ⟨e, rfl, ?_⟩
    rcases deliver_mode h with hm | rfl | ⟨p, w, hword, hm | ⟨hm, rfl, rfl⟩ | ⟨hm, rfl, rfl⟩⟩
    · exact absurd hm hne
    · exact .inl rfl
    · exact absurd hm hne
    · exact .inr (.inl ⟨hm, hword⟩)
    · exact .inr (.inr ⟨hm, hword⟩)

end Sys2Proof.Machine
end

section
/-! SUPPORT. The spec's formulas as the statements write them are the model's own operands (spec/40_quantizer.md R111,
R112, 41_pitchbend.md R131 to R134). -/

namespace Sys2Proof.Machine

open Sys2Proof.Claims

/-- The change test is the sample's leaving the window (R112). -/
theorem change_iff_not_inWindow (v : BitVec 7) (raw : RawSample) : Change v raw ↔ ¬ InWindow v raw := by
  rw [change_iff, InWindow]
  omega

/-- The smoother (R132, R133). -/
theorem smoothed_eq (sm : Int) (raw : RawSample) : smoothed sm raw = smooth sm raw := by
  rw [smooth_eq, smoothed, deltaOf, tdiv_eq]
  simp only [← not_le, abs_le, ite_not]

/-- The fix-up: the clamp and the deadband (R134). -/
theorem fixUp_eq (s : Int) : fixUp s = scale s := by
  rw [scale_eq, tdiv_eq, fixUp]
  generalize Int.tdiv ((s - 8192) * 1008) 1000 + 8192 = t
  have hclamp : max 0 (min 16383 t) = clamp t := by
    simp only [clamp, Config.pbMax]
    split <;> split <;> omega
  simp only [hclamp, deadband, Config.pbCenter, Config.pbDeadband]
  refine if_congr ?_ rfl rfl
  rw [abs_le]
  omega

theorem bendOf_eq (sm : Int) (raw : RawSample) : bendOf sm raw = fixedup (smooth sm raw) := by
  rw [bendOf, fixUp_eq, smoothed_eq, fixedup]

end Sys2Proof.Machine
end

section
/-! Which micro-step ends an operation, and with which status (spec/10_state.md R33, 40_quantizer.md R114,
41_pitchbend.md R136, 43_packetizer.md R178). -/

namespace Sys2Proof.Machine

open Sys2Proof.Claims

/-- What a micro-step must do where `ends` names the status it ends with, or names none: `idle` says that the port is
idle after it, `after` and `before` are the port's status register. -/
def EndsAs (ends : Option Status) (idle : Prop) (after before : Status) : Prop :=
  (∀ c, ends = some c → idle ∧ after = c) ∧ (ends = none → ¬ idle ∧ after = before)

section
variable {ends : Option Status} {idle : Prop} {after before : Status}

theorem endsAs_some (c : Status) (he : ends = some c) (hi : idle) (hs : after = c) :
    EndsAs ends idle after before := by
  subst he
  exact ⟨fun _ hc => ⟨hi, hs.trans (Option.some.inj hc)⟩, nofun⟩

theorem endsAs_none (he : ends = none) (hi : ¬ idle) (hs : after = before) : EndsAs ends idle after before := by
  subst he
  exact ⟨nofun, fun _ => ⟨hi, hs⟩⟩

end

variable {s t : State}

/-- The producer's part of the statement, for the state after its micro-step. -/
abbrev ProducerEndsAs (s t : State) : Prop := EndsAs (producerEnd s) (t.producer = .idle) t.pstat s.pstat

/-- The consumer's part of the statement. -/
abbrev ConsumerEndsAs (s t : State) : Prop := EndsAs (consumerEnd s) (t.consumer = .idle) t.tstat s.tstat

/-- ENQ's answer is the status (60_exceptions.md R203). -/
theorem settle_pstat (r : Report) (ok : Bool) (s : State) :
    (settle r ok s).pstat = if ok then .enqueued else .queueFull := by
  cases ok with
  | false => rw [settle_full]; rfl
  | true => cases r <;> rfl

/-- SAMPLE_CC ends in its own lines but for a change seen while Enabled (40_quantizer.md R114). -/
theorem quantizerFront_endsAs {res : SamplerResult} {ch : BitVec 8} {raw : RawSample}
    (hp : s.producer = .sampled (.control res ch raw)) :
    ProducerEndsAs s (afterFront (quantizerFront res ch raw s)) := by
  rcases quantizerFront_cases res ch raw s with
    ⟨hbad, hf⟩ | ⟨hch, hres, hf⟩ | ⟨hch, hres, hin, hf⟩ | ⟨hch, hres, -, hm, hf⟩ | ⟨hch, hres, hout, hm, hf⟩ <;>
    rw [hf]
  · exact endsAs_some .invalidChannel (by simp only [producerEnd, hp, if_pos hbad]) rfl rfl
  · exact endsAs_some .sampleTimeout (by simp [producerEnd, hp, Nat.not_le.2 hch, hres]) rfl rfl
  · rw [change_iff_not_inWindow, not_not] at hin
    exact endsAs_some .noEvent (by simp [producerEnd, hp, Nat.not_le.2 hch, hres, hin]) rfl rfl
  · exact endsAs_some .noEvent (by simp [producerEnd, hp, Nat.not_le.2 hch, hres, hm]) rfl rfl
  · rw [change_iff_not_inWindow] at hout
    exact endsAs_none (by simp [producerEnd, hp, Nat.not_le.2 hch, hres, hm, hout]) (by simp [afterFront]) rfl

/-- SAMPLE_PB ends in its own lines but for a new value while Enabled (41_pitchbend.md R136). -/
theorem pitchBendFront_endsAs {res : SamplerResult} {raw : RawSample}
    (hp : s.producer = .sampled (.pitchBend res raw)) :
    ProducerEndsAs s (afterFront (pitchBendFront res raw s)) := by
  rcases pitchBendFront_cases res raw s with ⟨hres, hf⟩ | ⟨hres, hf⟩ | ⟨hres, hm, hnew, hf⟩ | ⟨hres, hold, hf⟩ <;>
    rw [hf]
  · exact endsAs_some .invalidChannel (by simp [producerEnd, hp, hres]) rfl rfl
  · exact endsAs_some .sampleTimeout (by simp [producerEnd, hp, hres]) rfl rfl
  · rw [← bendOf_eq] at hnew
    exact endsAs_none (by simp [producerEnd, hp, hres, hm, hnew.symm]) (by simp [afterFront]) rfl
  · rw [← bendOf_eq] at hold
    refine endsAs_some .noEvent ?_ rfl rfl
    rcases hold with hm | hls
    · simp [producerEnd, hp, hres, hm]
    · simp [producerEnd, hp, hres, hls.symm]

/-- The producer's next micro-step completes in every state, and ends the operation where the rules end it. -/
theorem producerStep_endsAs (hne : s.producer ≠ .idle) : ∃ t, producerStep s = .next t ∧ ProducerEndsAs s t := by
  cases hp : s.producer with
  | idle => exact absurd hp hne
  | sampled op =>
    refine ⟨_, producerStep_sampled hp, ?_⟩
    cases op with
    | control res ch raw => exact quantizerFront_endsAs hp
    | pitchBend res raw => exact pitchBendFront_endsAs hp
  | eq1 r =>
    have hend : producerEnd s = none := by simp only [producerEnd, hp]
    by_cases hf : QueueFull s
    · exact ⟨_, producerStep_eq1_full hp hf, endsAs_none hend nofun rfl⟩
    · exact ⟨_, producerStep_eq1_room hp hf, endsAs_none hend nofun rfl⟩
  | eq2 r nxt =>
    exact ⟨_, producerStep_eq2 hp, endsAs_none (by simp only [producerEnd, hp]) nofun rfl⟩
  | eq3 r nxt =>
    exact ⟨_, producerStep_eq3 hp, endsAs_none (by simp only [producerEnd, hp]) nofun rfl⟩
  | answered r ok =>
    have hend : producerEnd s = some (if ok then .enqueued else .queueFull) := by simp only [producerEnd, hp]
    exact ⟨_, producerStep_answered hp, endsAs_some _ hend rfl (settle_pstat r ok s)⟩

/-- A micro-step of the consumer that completes ends the operation where the rules end it (43_packetizer.md R178). -/
theorem consumerStep_endsAs (hne : s.consumer ≠ .idle) (h : consumerStep s = .next t) : ConsumerEndsAs s t := by
  cases hc : s.consumer with
  | idle => exact absurd hc hne
  | fn1 =>
    cases hb : s.epBusy with
    | true =>
      rw [consumerStep_fn1_busy hc hb] at h; cases h
      exact endsAs_some .endpointBusy (by simp [consumerEnd, hc, hb]) rfl rfl
    | false =>
      rw [consumerStep_fn1_idle hc hb] at h; cases h
      exact endsAs_none (by simp [consumerEnd, hc, hb]) nofun rfl
  | fn4 =>
    rw [consumerStep_fn4 hc] at h
    obtain ⟨u, hf, hu⟩ := andThen_eq_next.1 h
    cases hu
    rcases finishDrain_cases hf with ⟨h0, rfl⟩ | ⟨h0, bytes, -, rfl⟩
    · exact endsAs_some .noTransfer (by simp [consumerEnd, hc, h0]) rfl rfl
    · exact endsAs_some .submitted (by simp [consumerEnd, hc, h0]) rfl rfl
  | fn2 =>
    rw [consumerStep_fn2 hc] at h; cases h
    exact endsAs_none (by simp only [consumerEnd, hc]) nofun rfl
  | fn3 =>
    have hend : consumerEnd s = none := by simp only [consumerEnd, hc]
    by_cases hr : Room s
    · rw [consumerStep_fn3_room hc hr] at h; cases h
      exact endsAs_none hend nofun rfl
    · rw [consumerStep_fn3_noRoom hc hr] at h; cases h
      exact endsAs_none hend nofun rfl
  | dq1 =>
    have hend : consumerEnd s = none := by simp only [consumerEnd, hc]
    by_cases hq : QueueEmpty s
    · rw [consumerStep_dq1_empty hc hq] at h; cases h
      exact endsAs_none hend nofun rfl
    · rw [consumerStep_dq1_entry hc hq] at h; cases h
      exact endsAs_none hend nofun rfl
  | dq2 =>
    rw [consumerStep_dq2 hc] at h; cases h
    exact endsAs_none (by simp only [consumerEnd, hc]) nofun rfl
  | dq3 nxt =>
    simp only [consumerStep, hc] at h
    obtain ⟨⟨u, e⟩, hd, hu⟩ := andThen_eq_next.1 h
    obtain ⟨-, rfl⟩ := dq3_eq_next hd
    cases hu
    exact endsAs_none (by simp only [consumerEnd, hc]) nofun rfl
  | write e =>
    simp only [consumerStep, hc] at h
    obtain ⟨p, -, hu⟩ := andThen_eq_next.1 h
    cases hu
    exact endsAs_none (by simp only [consumerEnd, hc]) nofun rfl

/-- Settles O29: the two ports' phases, one by one. -/
theorem statusIsWrittenByTheLastMicroStep : Obligations.StatusIsWrittenByTheLastMicroStep :=
  ⟨fun _ hne => producerStep_endsAs hne, fun _ _ hne h => consumerStep_endsAs hne h⟩

end Sys2Proof.Machine
end

section
/-! SUPPORT. A run of one port's micro-steps, told by its first step (spec/20_memory.md R65 (b)). -/

namespace Sys2Proof.Machine

variable {s : State}

@[simp] theorem microStep_P (s : State) : microStep .P s = producerStep s := rfl

@[simp] theorem microStep_T (s : State) : microStep .T s = consumerStep s := rfl

theorem runPort_succ (p : Port) (k : Nat) (s : State) :
    runPort p (k + 1) s = andThen (microStep p s) (runPort p k) := rfl

/-- A run of the producer goes on from its first micro-step. -/
theorem runPort_P_step {t : State} {k : Nat} (h : producerStep s = .next t) :
    runPort .P (k + 1) s = runPort .P k t := by
  rw [runPort_succ, microStep_P, h, andThen_next]

/-- A run of the consumer goes on from its first micro-step. -/
theorem runPort_T_step {t : State} {k : Nat} (h : consumerStep s = .next t) :
    runPort .T (k + 1) s = runPort .T k t := by
  rw [runPort_succ, microStep_T, h, andThen_next]

theorem runPort_T_fault {r : Fault} {k : Nat} (h : consumerStep s = .fault r) :
    runPort .T (k + 1) s = .fault r := by
  rw [runPort_succ, microStep_T, h, andThen_fault]

theorem runPort_T_refused {r : Refusal} {k : Nat} (h : consumerStep s = .refused r) :
    runPort .T (k + 1) s = .refused r := by
  rw [runPort_succ, microStep_T, h, andThen_refused]

/-- At an idle port a micro-step does nothing (log 16). -/
theorem microStep_idle {p : Port} (h : portIdle p s = true) : microStep p s = .next s := by
  cases p with
  | P => exact producerStep_idle (by simpa [portIdle] using h)
  | T => exact consumerStep_idle (by simpa [portIdle] using h)

/-- An idle port stays idle however often it is called (log 16). -/
theorem runPort_idle {p : Port} (h : portIdle p s = true) (k : Nat) : runPort p k s = .next s := by
  induction k with
  | zero => rfl
  | succ k ih => rw [runPort_succ, microStep_idle h, andThen_next, ih]

theorem withProducer_self {p : ProducerPhase} (h : s.producer = p) : { s with producer := p } = s := by
  subst h; rfl

theorem withConsumer_self {c : ConsumerPhase} (h : s.consumer = c) : { s with consumer := c } = s := by
  subst h; rfl

/-- Going on with what gives back the state it meets changes nothing. -/
theorem andThen_self {o : Result} {f : State → Result} (h : ∀ t, o = .next t → f t = .next t) : andThen o f = o := by
  cases o with
  | next t => exact h t rfl
  | fault | refused => rfl

end Sys2Proof.Machine
end

section
/-! A SAMPLE operation run by its micro-steps is the operation as one step (spec/20_memory.md R65 (b), 40_quantizer.md
R114, 41_pitchbend.md R136): the filters' lines do not read the phase, and EQ1 up to the answer are one ENQ. -/

namespace Sys2Proof.Machine

variable {s : State}

/-! ### The filters' own lines do not depend on the phase -/

theorem quantizerFront_withProducer (res : SamplerResult) (ch : BitVec 8) (raw : RawSample) (p : ProducerPhase)
    (s : State) :
    quantizerFront res ch raw { s with producer := p } =
      ({ (quantizerFront res ch raw s).1 with producer := p }, (quantizerFront res ch raw s).2) := by
  simp only [quantizerFront, lrvRead, State.channels]
  split
  · rfl
  split
  · rfl
  by_cases hc : Change (s.lrv.getD ch.toNat 0#7) raw
  · simp only [hc, not_true_eq_false, if_false]
    -- The last test is of the mode, the fourth field.
    rcases s with ⟨_, _, _, _ | _⟩ <;> rfl
  · simp only [hc, not_false_eq_true, if_true]
    rfl

theorem pitchBendFront_withProducer (res : SamplerResult) (raw : RawSample) (p : ProducerPhase) (s : State) :
    pitchBendFront res raw { s with producer := p } =
      ({ (pitchBendFront res raw s).1 with producer := p }, (pitchBendFront res raw s).2) := by
  simp only [pitchBendFront]
  split_ifs <;> rfl

theorem sampleFront_withProducer (op : SampleOp) (p : ProducerPhase) (s : State) :
    sampleFront op { s with producer := p } =
      ({ (sampleFront op s).1 with producer := p }, (sampleFront op s).2) := by
  cases op with
  | control res ch raw => exact quantizerFront_withProducer res ch raw p s
  | pitchBend res raw => exact pitchBendFront_withProducer res raw p s

/-! ### The ENQ and its answer -/

@[simp] theorem enqueue_producer (e : Entry) (s : State) : (enqueue e s).1.producer = s.producer := by
  rcases enqueue_cases e s with ⟨-, h⟩ | ⟨-, h⟩ <;> rw [h]

@[simp] theorem settle_producer (r : Report) (ok : Bool) (s : State) : (settle r ok s).producer = s.producer := by
  cases ok with
  | false => rw [settle_full]
  | true => cases r <;> rfl

@[simp] theorem finishSample_producer (front : State × Option Report) :
    (finishSample front).producer = front.1.producer := by
  obtain ⟨s, _ | r⟩ := front
  · rfl
  · simp [finishSample]

/-- From EQ1 on, the micro-steps are one ENQ and the settling of its answer (42_event_queue.md R152). -/
theorem runPort_eq1 (r : Report) (s : State) :
    runPort .P 4 { s with producer := .eq1 r } =
      .next { finishSample (s, some r) with producer := .idle } := by
  by_cases hf : QueueFull s
  · have heq1 := producerStep_eq1_full (s := { s with producer := .eq1 r }) rfl hf
    rw [runPort_P_step heq1, runPort_P_step (producerStep_answered rfl), runPort_idle rfl, finishSample_full hf,
      settle_full]
  · have heq1 := producerStep_eq1_room (s := { s with producer := .eq1 r }) rfl hf
    rw [runPort_P_step heq1, runPort_P_step (producerStep_eq2 rfl), runPort_P_step (producerStep_eq3 rfl),
      runPort_P_step (producerStep_answered rfl), runPort_idle rfl]
    cases r with
    | control ch cand => rw [finishSample_control hf, settle_control_success]; rfl
    | pitchBend v => rw [finishSample_pitchBend hf, settle_pitchBend_success]; rfl

/-- What the filter's lines asked for is done by the micro-steps after them. -/
theorem runPort_afterFront {front : State × Option Report} (h : front.1.producer = .idle) (p : ProducerPhase) :
    runPort .P 4 (afterFront ({ front.1 with producer := p }, front.2)) = .next (finishSample front) := by
  obtain ⟨u, _ | r⟩ := front
  · exact (runPort_idle rfl 4).trans (congrArg _ (withProducer_self h))
  · exact (runPort_eq1 r u).trans (congrArg _ (withProducer_self ((finishSample_producer _).trans h)))

/-- Both filters at once: at a port that was idle, five micro-steps are the whole operation. -/
theorem runPort_sampled (op : SampleOp) (h : s.producer = .idle) :
    runPort .P 5 { s with producer := .sampled op } = .next (finishSample (sampleFront op s)) := by
  rw [runPort_P_step (producerStep_sampled rfl), sampleFront_withProducer]
  exact runPort_afterFront ((sampleFront_producer op s).trans h) _

/-- Settles O31: beginning the operation enters the phase the five micro-steps start from. -/
theorem microStepsOfSampleOperationsAreTheOperation : Obligations.MicroStepsOfSampleOperationsAreTheOperation :=
  fun _ h => ⟨fun res ch raw => runPort_sampled (.control res ch raw) h,
    fun res raw => runPort_sampled (.pitchBend res raw) h⟩

end Sys2Proof.Machine
end

section
/-! FRAME_NOTIFY run by its micro-steps is the operation as one step, its stops included (spec/20_memory.md R65 (b),
43_packetizer.md R178, R179): a round of the loop is five micro-steps, and the room test ends it within sixteen. -/

namespace Sys2Proof.Machine

variable {s : State}

/-! ### The stops: where a read fails the two grains fail alike -/

theorem dequeue_unwritten (hq : ¬ QueueEmpty s) (he : slotRead s (advance s.capacity s.rd) = none) :
    dequeue s = .fault .slotNotWritten := by
  have hread : slotRead (dq2 s) (advance s.capacity s.rd) = none := he
  simp only [dequeue, if_neg hq, dq3, hread, andThen_fault]

theorem consumerStep_dq3_unwritten {nxt : Nat} (h : s.consumer = .dq3 nxt) (he : slotRead s nxt = none) :
    consumerStep s = .fault .slotNotWritten := by
  simp only [consumerStep, h, dq3, he, andThen_fault]

theorem packetFor_unknown {e : Entry} (hp : entryPacket s.channels e = none) :
    packetFor e s = .refused (.unknownTag e.tag) := by
  simp only [packetFor, hp]

theorem consumerStep_write_unknown {e : Entry} (h : s.consumer = .write e)
    (hp : entryPacket s.channels e = none) : consumerStep s = .refused (.unknownTag e.tag) := by
  simp only [consumerStep, h, packetFor_unknown hp, andThen_refused]

theorem drain_unwritten {k : Nat} (hr : Room s) (hq : ¬ QueueEmpty s)
    (he : slotRead s (advance s.capacity s.rd) = none) : drain (k + 1) s = .fault .slotNotWritten := by
  simp only [drain, if_pos hr, dequeue_unwritten hq he, andThen_fault]

theorem drain_unknown {k : Nat} {e : Entry} (hr : Room s) (hq : ¬ QueueEmpty s)
    (he : slotRead s (advance s.capacity s.rd) = some e) (hp : entryPacket s.channels e = none) :
    drain (k + 1) s = .refused (.unknownTag e.tag) := by
  simp only [drain, if_pos hr, dequeue_success hq he, andThen_next, packetFor, hp, andThen_refused]

/-! ### The end of the drain -/

/-- FN4 does not read the phase. -/
theorem finishDrain_withConsumer (c : ConsumerPhase) (s : State) :
    finishDrain { s with consumer := c } = andThen (finishDrain s) (fun t => .next { t with consumer := c }) := by
  by_cases h0 : s.txn = 0
  · rw [finishDrain_nothing h0]; exact finishDrain_nothing (s := { s with consumer := c }) h0
  · cases hb : txBlock s s.txn with
    | none =>
      have hb' : txBlock { s with consumer := c } s.txn = none := hb
      simp only [finishDrain, if_neg h0, submit, hb, hb', andThen_fault]
    | some bytes =>
      rw [finishDrain_submit h0 hb]
      exact finishDrain_submit (s := { s with consumer := c }) h0 hb

theorem finishDrain_consumer {t : State} (h : finishDrain s = .next t) : t.consumer = s.consumer := by
  rcases finishDrain_cases h with ⟨-, rfl⟩ | ⟨-, bytes, -, rfl⟩ <;> rfl

/-- From FN4 on, one micro-step is the submission. -/
theorem runPort_fn4 (h : s.consumer = .idle) (k : Nat) :
    runPort .T (k + 1) { s with consumer := .fn4 } = finishDrain s := by
  rw [runPort_succ, microStep_T, consumerStep_fn4 rfl, finishDrain_withConsumer, andThen_assoc, andThen_assoc]
  refine andThen_self fun t ht => ?_
  have hidle : t.consumer = .idle := (finishDrain_consumer ht).trans h
  exact (runPort_idle rfl k).trans (congrArg _ (withConsumer_self hidle))

/-- The loop of FN3 by its micro-steps: five a round, as long as the buffer has room for `k` more packets
(43_packetizer.md R178, R179). -/
theorem runPort_fn3 (k : Nat) (h : s.consumer = .idle) (hk : s.txn + 4 * k = 64) :
    runPort .T (5 * k + 2) { s with consumer := .fn3 } = andThen (drain k s) finishDrain := by
  induction k generalizing s with
  | zero =>
    have hr : ¬ Room s := by simp only [Room, Config.packetBytes, Config.maxPacket]; omega
    have hfn3 := consumerStep_fn3_noRoom (s := { s with consumer := .fn3 }) rfl hr
    rw [drain_zero, andThen_next]
    exact (runPort_T_step hfn3).trans (runPort_fn4 h 0)
  | succ k ih =>
    have hr : Room s := by simp only [Room, Config.packetBytes, Config.maxPacket]; omega
    have hfn3 := consumerStep_fn3_room (s := { s with consumer := .fn3 }) rfl hr
    rw [show 5 * (k + 1) + 2 = (5 * k + 2) + 1 + 1 + 1 + 1 + 1 by omega]
    refine (runPort_T_step hfn3).trans ?_
    by_cases hq : QueueEmpty s
    · have hdq1 := consumerStep_dq1_empty (s := { s with consumer := .dq1 }) rfl hq
      rw [drain_empty hr hq, andThen_next]
      exact (runPort_T_step hdq1).trans (runPort_fn4 (s := answerDeq none s) h _)
    · have hdq1 := consumerStep_dq1_entry (s := { s with consumer := .dq1 }) rfl hq
      have hdq2 := consumerStep_dq2 (s := { s with consumer := .dq2 }) rfl
      refine (runPort_T_step hdq1).trans ((runPort_T_step hdq2).trans ?_)
      cases he : slotRead s (advance s.capacity s.rd) with
      | none =>
        rw [drain_unwritten hr hq he, andThen_fault]
        exact runPort_T_fault (consumerStep_dq3_unwritten rfl he)
      | some e =>
        have hdq3 := consumerStep_dq3 (s := { dq2 s with consumer := .dq3 (advance s.capacity s.rd) }) rfl he
        refine (runPort_T_step hdq3).trans ?_
        cases hp : entryPacket s.channels e with
        | none =>
          rw [drain_unknown hr hq he hp, andThen_refused]
          exact runPort_T_refused (consumerStep_write_unknown rfl hp)
        | some p =>
          have hwrite := consumerStep_write (s := { answerDeq (some e) (dq2 s) with consumer := .write e }) rfl hp
          have hk' : s.txn + 4 + 4 * k = 64 := by omega
          rw [drain_round hr hq he hp]
          exact (runPort_T_step hwrite).trans (ih (s := appendPacket p (answerDeq (some e) (dq2 s))) h hk')

/-- FN1 and FN2, the loop with sixteen packets of room, and FN4. -/
theorem runPort_frameNotify (h : s.consumer = .idle) :
    runPort .T 84 { s with consumer := .fn1 } = execFrameNotify s := by
  rw [execFrameNotify]
  by_cases hb : s.epBusy = true
  · have hfn1 := consumerStep_fn1_busy (s := { s with consumer := .fn1 }) rfl hb
    rw [if_pos hb]
    refine (runPort_T_step hfn1).trans ((runPort_idle rfl _).trans ?_)
    exact congrArg _ (withConsumer_self (s := setStatus .T .endpointBusy s) h)
  · have hfn1 := consumerStep_fn1_idle (s := { s with consumer := .fn1 }) rfl (Bool.eq_false_of_not_eq_true hb)
    have hfn2 := consumerStep_fn2 (s := { s with consumer := .fn2 }) rfl
    rw [if_neg hb]
    exact (runPort_T_step hfn1).trans ((runPort_T_step hfn2).trans (runPort_fn3 (s := { s with txn := 0 }) 16 h rfl))

/-- Settles O32: beginning the operation enters the phase the 84 micro-steps start from. -/
theorem microStepsOfFrameNotifyAreTheOperation : Obligations.MicroStepsOfFrameNotifyAreTheOperation :=
  fun _ h => (andThen_next _ _).trans (runPort_frameNotify h)

end Sys2Proof.Machine
end

section
/-! SUPPORT. The micro-steps read backwards (spec/42_event_queue.md R152, R155, 43_packetizer.md R178): one that
completed is one of these moves. -/

namespace Sys2Proof.Machine

/-- The micro-steps of the producer that complete, by the state they lead to (40_quantizer.md R114, 42_event_queue.md
R152). -/
inductive ProducerMove (s : State) : State → Prop where
  | idle (hp : s.producer = .idle) : ProducerMove s s
  | sampled {op : SampleOp} (hp : s.producer = .sampled op) : ProducerMove s (afterFront (sampleFront op s))
  | eq1Full {r : Report} (hp : s.producer = .eq1 r) (hf : QueueFull s) :
    ProducerMove s { s with enqAnswer := some (answerWord false 0#24), producer := .answered r false }
  | eq1Room {r : Report} (hp : s.producer = .eq1 r) (hf : ¬ QueueFull s) :
    ProducerMove s { s with producer := .eq2 r (advance s.capacity s.wr) }
  | eq2 {r : Report} {nxt : Nat} (hp : s.producer = .eq2 r nxt) :
    ProducerMove s { s with slots := Memory.write s.slots nxt (reportEntry r), producer := .eq3 r nxt }
  | eq3 {r : Report} {nxt : Nat} (hp : s.producer = .eq3 r nxt) :
    ProducerMove s { s with wr := nxt, enqAnswer := some (answerWord true 0#24), producer := .answered r true }
  | answered {r : Report} {ok : Bool} (hp : s.producer = .answered r ok) :
    ProducerMove s { settle r ok s with producer := .idle }

/-- The micro-steps of the consumer that complete, by the state they lead to (42_event_queue.md R155, 43_packetizer.md
R178). -/
inductive ConsumerMove (s : State) : State → Prop where
  | idle (hc : s.consumer = .idle) : ConsumerMove s s
  | fn1Busy (hc : s.consumer = .fn1) (hb : s.epBusy = true) :
    ConsumerMove s { s with tstat := .endpointBusy, consumer := .idle }
  | fn1Idle (hc : s.consumer = .fn1) (hb : s.epBusy = false) : ConsumerMove s { s with consumer := .fn2 }
  | fn2 (hc : s.consumer = .fn2) : ConsumerMove s { s with txn := 0, consumer := .fn3 }
  | fn3Room (hc : s.consumer = .fn3) (hr : Room s) : ConsumerMove s { s with consumer := .dq1 }
  | fn3Full (hc : s.consumer = .fn3) (hr : ¬ Room s) : ConsumerMove s { s with consumer := .fn4 }
  | dq1Empty (hc : s.consumer = .dq1) (hq : QueueEmpty s) :
    ConsumerMove s { s with deqAnswer := some (answerWord false 0#24), consumer := .fn4 }
  | dq1Entry (hc : s.consumer = .dq1) (hq : ¬ QueueEmpty s) : ConsumerMove s { s with consumer := .dq2 }
  | dq2 (hc : s.consumer = .dq2) :
    ConsumerMove s { s with rd := advance s.capacity s.rd, consumer := .dq3 (advance s.capacity s.rd) }
  | dq3 {nxt : Nat} {e : Entry} (hc : s.consumer = .dq3 nxt) (he : slotRead s nxt = some e) :
    ConsumerMove s { s with deqAnswer := some (answerWord true e.word), consumer := .write e }
  | write {e : Entry} {p : Packet} (hc : s.consumer = .write e) (hp : entryPacket s.channels e = some p) :
    ConsumerMove s { appendPacket p s with consumer := .fn3 }
  | fn4 {u : State} (hc : s.consumer = .fn4) (hf : finishDrain s = .next u) :
    ConsumerMove s { u with consumer := .idle }

variable {s t : State}

theorem producerStep_move (h : producerStep s = .next t) : ProducerMove s t := by
  cases hp : s.producer with
  | idle => rw [producerStep_idle hp] at h; cases h; exact .idle hp
  | sampled op => rw [producerStep_sampled hp] at h; cases h; exact .sampled hp
  | eq1 r =>
    by_cases hf : QueueFull s
    · rw [producerStep_eq1_full hp hf] at h; cases h; exact .eq1Full hp hf
    · rw [producerStep_eq1_room hp hf] at h; cases h; exact .eq1Room hp hf
  | eq2 r nxt => rw [producerStep_eq2 hp] at h; cases h; exact .eq2 hp
  | eq3 r nxt => rw [producerStep_eq3 hp] at h; cases h; exact .eq3 hp
  | answered r ok => rw [producerStep_answered hp] at h; cases h; exact .answered hp

theorem consumerStep_move (h : consumerStep s = .next t) : ConsumerMove s t := by
  cases hc : s.consumer with
  | idle => rw [consumerStep_idle hc] at h; cases h; exact .idle hc
  | fn1 =>
    cases hb : s.epBusy with
    | true => rw [consumerStep_fn1_busy hc hb] at h; cases h; exact .fn1Busy hc hb
    | false => rw [consumerStep_fn1_idle hc hb] at h; cases h; exact .fn1Idle hc hb
  | fn2 => rw [consumerStep_fn2 hc] at h; cases h; exact .fn2 hc
  | fn3 =>
    by_cases hr : Room s
    · rw [consumerStep_fn3_room hc hr] at h; cases h; exact .fn3Room hc hr
    · rw [consumerStep_fn3_noRoom hc hr] at h; cases h; exact .fn3Full hc hr
  | dq1 =>
    by_cases hq : QueueEmpty s
    · rw [consumerStep_dq1_empty hc hq] at h; cases h; exact .dq1Empty hc hq
    · rw [consumerStep_dq1_entry hc hq] at h; cases h; exact .dq1Entry hc hq
  | dq2 => rw [consumerStep_dq2 hc] at h; cases h; exact .dq2 hc
  | dq3 nxt =>
    cases he : slotRead s nxt with
    | none => rw [consumerStep_dq3_unwritten hc he] at h; cases h
    | some e => rw [consumerStep_dq3 hc he] at h; cases h; exact .dq3 hc he
  | write e =>
    cases hp : entryPacket s.channels e with
    | none => rw [consumerStep_write_unknown hc hp] at h; cases h
    | some p => rw [consumerStep_write hc hp] at h; cases h; exact .write hc hp
  | fn4 =>
    rw [consumerStep_fn4 hc] at h
    obtain ⟨u, hf, hu⟩ := andThen_eq_next.1 h
    cases hu
    exact .fn4 hc hf

/-! ### Single fields of what only the other agent writes (20_memory.md R61) -/

theorem OnlyOwned.wr_eq (h : OnlyOwned .T s t) : t.wr = s.wr := by
  have hwr : t.wr = (withOwned .T t s).wr := congrArg State.wr h
  exact hwr

theorem OnlyOwned.producer_eq (h : OnlyOwned .T s t) : t.producer = s.producer := by
  have hp : t.producer = (withOwned .T t s).producer := congrArg State.producer h
  exact hp

theorem OnlyOwned.consumer_eq (h : OnlyOwned .P s t) : t.consumer = s.consumer := by
  have hc : t.consumer = (withOwned .P t s).consumer := congrArg State.consumer h
  exact hc

end Sys2Proof.Machine
end

section
/-! SUPPORT. The queued entries as a list (spec/10_state.md R31, 42_event_queue.md R151): a slot written outside the
queue is not seen, an entry published stands last, the entry taken stood first. -/

namespace Sys2Proof.Machine

variable {s : State}

/-- The list looks only at the slots that are queued. -/
theorem queued_congr {m : List (Nat × Entry)}
    (h : ∀ k, k < queueCount s →
      Memory.read m ((s.rd + 1 + k) % s.capacity) = Memory.read s.slots ((s.rd + 1 + k) % s.capacity)) :
    queued { s with slots := m } = queued s :=
  List.filterMap_congr fun k hk => h k (List.mem_range.1 hk)

/-- EQ2 writes no queued slot (20_memory.md R65 (c)). -/
theorem queued_slotWrite (hi : IndicesOk s) (e : Entry) :
    queued (slotWrite (advance s.capacity s.wr) e s) = queued s :=
  queued_congr fun _ hk => Memory.read_write_other _ _ _ _ (queuedPlace_ne_advance_wr hi hk)

/-- EQ3 puts the entry written before it behind the others (42_event_queue.md R152). -/
theorem queued_publish (hi : IndicesOk s) (hf : ¬ QueueFull s) {e : Entry}
    (he : slotRead s (advance s.capacity s.wr) = some e) :
    queued { s with wr := advance s.capacity s.wr } = queued s ++ [e] := by
  have hlast : slotRead s ((s.rd + 1 + queueCount s) % s.capacity) = some e := by rw [newestPlace hi, he]
  calc queued { s with wr := advance s.capacity s.wr }
      = (List.range (queueCount s + 1)).filterMap fun k => slotRead s ((s.rd + 1 + k) % s.capacity) := by
        rw [← queueCount_publish hi hf]; rfl
    _ = queued s ++ [e] := by
        rw [List.range_succ, List.filterMap_append]
        simp only [List.filterMap_cons, hlast, List.filterMap_nil, queued]

/-- DQ2 takes the first of the queued entries (42_event_queue.md R155). -/
theorem queued_take (hi : IndicesOk s) (hq : ¬ QueueEmpty s) {e : Entry}
    (he : slotRead s (advance s.capacity s.rd) = some e) :
    queued s = e :: queued { s with rd := advance s.capacity s.rd } := by
  have hrest : queued { s with rd := advance s.capacity s.rd } =
      (List.range (queueCount { s with rd := advance s.capacity s.rd })).filterMap
        fun k => slotRead s ((s.rd + 1 + (k + 1)) % s.capacity) :=
    List.filterMap_congr fun k _ => congrArg (slotRead s) (queuedPlace_take s.capacity s.rd k)
  have hfirst : slotRead s ((s.rd + 1 + 0) % s.capacity) = some e := he
  rw [hrest, queued, ← queueCount_take hi hq, List.range_succ_eq_map, List.filterMap_cons, hfirst,
    List.filterMap_map]
  rfl

end Sys2Proof.Machine
end

section
/-! SUPPORT. What each update does to the stream of packets (spec/20_memory.md R71): the parts of the state it is made
of, the packet an ENQ publishes, and the three moves of a packet from the queue to the log. -/

namespace Sys2Proof.Machine

variable {s t u : State}

/-! ### What the stream is made of -/

/-- The part of a state that its stream depends on. -/
def State.streamPart (s : State) :
    (Nat × Nat) × (Nat × Nat × List (Nat × Entry)) × List Host.Cell × Nat × List Transfer × ConsumerPhase :=
  (s.parameters, (s.rd, s.wr, s.slots), s.tx, s.txn, s.txlog, s.consumer)

theorem stream_congr (h : t.streamPart = s.streamPart) : stream t = stream s := by
  simp only [State.streamPart, State.parameters, Prod.mk.injEq] at h
  obtain ⟨⟨hn, hc⟩, ⟨hrd, hwr, hslots⟩, htx, htxn, hlog, hcons⟩ := h
  simp only [stream, sentBytes, drainBytes, handBytes, queued, queueCount, txBlock, slotRead, hn, hc, hrd, hwr, hslots,
    htx, htxn, hlog, hcons]

theorem published_congr {s' t' : State} (hs : s'.streamPart = s.streamPart) (ht : t'.streamPart = t.streamPart) :
    published s' t' = published s t := by
  simp only [State.streamPart, State.parameters, Prod.mk.injEq] at hs ht
  obtain ⟨-, ⟨-, hws, -⟩, -⟩ := hs
  obtain ⟨⟨hn, -⟩, ⟨-, hwt, hslots⟩, -⟩ := ht
  simp only [published, slotRead, hws, hwt, hn, hslots]

theorem setStatus_streamPart (p : Port) (c : Status) (s : State) : (setStatus p c s).streamPart = s.streamPart := by
  cases p <;> rfl

theorem settle_streamPart (r : Report) (ok : Bool) (s : State) : (settle r ok s).streamPart = s.streamPart := by
  have hpar := settle_parameters r ok s
  cases ok with
  | false => rw [settle_full]; rfl
  | true => cases r <;> exact congrArg (·, _) hpar

theorem sampleFront_streamPart (op : SampleOp) (s : State) : (sampleFront op s).1.streamPart = s.streamPart := by
  have hpar := sampleFront_parameters op s
  cases op with
  | control res ch raw =>
    rcases quantizerFront_cases res ch raw s with
      ⟨-, h⟩ | ⟨-, -, h⟩ | ⟨-, -, -, h⟩ | ⟨-, -, -, -, h⟩ | ⟨-, -, -, -, h⟩ <;>
      rw [sampleFront, h] at hpar ⊢ <;> exact congrArg (·, _) hpar
  | pitchBend res raw =>
    rcases pitchBendFront_cases res raw s with ⟨-, h⟩ | ⟨-, h⟩ | ⟨-, -, -, h⟩ | ⟨-, -, h⟩ <;>
      rw [sampleFront, h] <;> rfl

theorem afterFront_streamPart (front : State × Option Report) :
    (afterFront front).streamPart = front.1.streamPart := by
  obtain ⟨s, _ | r⟩ := front <;> rfl

/-! ### Growing by what was published -/

/-- The stream of `t` is that of `s` and then the packet of the entry published between them (20_memory.md R71). -/
def StreamGrows (s t : State) : Prop := stream t = stream s ++ published s t

theorem streamGrows_of_eq (h : stream t = stream s) (hw : t.wr = s.wr) : StreamGrows s t := by
  rw [StreamGrows, h, published, if_pos hw, List.append_nil]

theorem streamGrows_of_part (h : t.streamPart = s.streamPart) : StreamGrows s t :=
  streamGrows_of_eq (stream_congr h) (congrArg (fun p => p.2.1.2.1) h)

/-- What happens before and after to the other parts of the state does not matter. -/
theorem StreamGrows.congr {s' t' : State} (h : StreamGrows s t) (hs : s'.streamPart = s.streamPart)
    (ht : t'.streamPart = t.streamPart) : StreamGrows s' t' := by
  rw [StreamGrows, stream_congr ht, stream_congr hs, published_congr hs ht]
  exact h

/-! ### The producer: a slot is written, then published -/

/-- EQ2 writes neither a queued slot nor the one DQ3 reads (20_memory.md R65 (c)). -/
theorem stream_slotWrite (h : Inv s) (hf : ¬ QueueFull s) (e : Entry) :
    stream (slotWrite (advance s.capacity s.wr) e s) = stream s := by
  have hhand : handBytes (slotWrite (advance s.capacity s.wr) e s) = handBytes s := by
    cases hc : s.consumer with
    | dq3 nxt =>
      obtain ⟨-, -, rfl, -⟩ := (consumerOk_dq3_iff hc).1 h.consumer
      have hread : slotRead (slotWrite (advance s.capacity s.wr) e s) s.rd = slotRead s s.rd :=
        Memory.read_write_other _ _ _ _ (Ne.symm hf)
      simp only [handBytes, slotWrite_consumer, hc, hread]
      rfl
    | idle | fn1 | fn2 | fn3 | dq1 | dq2 | write | fn4 => simp only [handBytes, slotWrite_consumer, hc] <;> rfl
  rw [stream, hhand, queued_slotWrite h.indices]
  rfl

/-- The index after an index is another one, since there are two slots at least (00_scope.md R7). -/
theorem Inv.advance_wr_ne (h : Inv s) : advance s.capacity s.wr ≠ s.wr := by
  obtain ⟨-, -, hc, -⟩ := h.params
  have hw := h.indices.2
  simp only [Config.minCapacity] at hc
  rw [advance_eq hw]
  split <;> omega

/-- EQ3 adds the packet of the entry it publishes (42_event_queue.md R152). -/
theorem streamGrows_publish (h : Inv s) (hf : ¬ QueueFull s) {e : Entry}
    (he : slotRead s (advance s.capacity s.wr) = some e) :
    StreamGrows s { s with wr := advance s.capacity s.wr } := by
  have hpub : published s { s with wr := advance s.capacity s.wr } = entryBytes s.channels e := by
    rw [published, if_neg h.advance_wr_ne]
    exact congrArg (fun o => (o.map (entryBytes s.channels)).getD []) he
  rw [StreamGrows, hpub, stream, queued_publish h.indices hf he, List.flatMap_append, ← List.append_assoc]
  simp only [List.flatMap_cons, List.flatMap_nil, List.append_nil]
  rfl

/-- ENQ as one step: the slot, then the index (42_event_queue.md R152). -/
theorem streamGrows_enqueue (h : Inv s) (hp : s.producer = .idle) (e : Entry) : StreamGrows s (enqueue e s).1 := by
  rcases enqueue_cases e s with ⟨-, he⟩ | ⟨hf, he⟩ <;> rw [he]
  · exact streamGrows_of_part rfl
  · have hw : Inv (slotWrite (advance s.capacity s.wr) e s) := h.writeSlot hf (producerOk_idle hp)
    have hgrow := streamGrows_publish hw hf (Memory.read_write_same _ _ _)
    rw [StreamGrows, stream_slotWrite h hf e] at hgrow
    exact hgrow

theorem streamGrows_producerStep (h : Inv s) (hstep : producerStep s = .next t) : StreamGrows s t := by
  cases producerStep_move hstep with
  | idle => exact streamGrows_of_part rfl
  | @sampled op => exact streamGrows_of_part ((afterFront_streamPart _).trans (sampleFront_streamPart op s))
  | eq1Full | eq1Room => exact streamGrows_of_part rfl
  | @eq2 r nxt hp =>
    obtain ⟨-, rfl, hf⟩ := (producerOk_eq2_iff hp).1 h.producer
    exact streamGrows_of_eq (stream_slotWrite h hf (reportEntry r)) rfl
  | eq3 hp =>
    obtain ⟨-, ⟨rfl, hf⟩, hs⟩ := (producerOk_eq3_iff hp).1 h.producer
    exact (streamGrows_publish h hf hs).congr rfl rfl
  | @answered r ok => exact streamGrows_of_part (settle_streamPart r ok s)

/-- A SAMPLE operation taken whole. -/
theorem streamGrows_sample (h : Inv s) (hp : s.producer = .idle) (op : SampleOp) :
    StreamGrows s (finishSample (sampleFront op s)) := by
  have hfront := sampleFront_streamPart op s
  have hok := sampleFront_ok h op
  have hidle := (sampleFront_producer op s).trans hp
  generalize sampleFront op s = front at hfront hok hidle
  obtain ⟨u, _ | r⟩ := front
  · exact streamGrows_of_part hfront
  · exact (streamGrows_enqueue hok.1 hidle (reportEntry r)).congr hfront.symm (settle_streamPart r _ _)

/-! ### The consumer: a packet goes from the queue to the hand, to the buffer, to the log -/

/-- The stream of a state whose drain is in progress with nothing in the hand. -/
theorem stream_draining (hc : s.consumer = .fn3 ∨ s.consumer = .dq1 ∨ s.consumer = .dq2 ∨ s.consumer = .fn4) :
    stream s = sentBytes s ++ (txBlock s s.txn).getD [] ++ (queued s).flatMap (entryBytes s.channels) := by
  rcases hc with hc | hc | hc | hc <;> simp only [stream, drainBytes, handBytes, hc, List.append_nil]

/-- The stream of a state whose consumer has placed nothing in the buffer. -/
theorem stream_undrained (hc : s.consumer = .idle ∨ s.consumer = .fn1 ∨ s.consumer = .fn2) :
    stream s = sentBytes s ++ (queued s).flatMap (entryBytes s.channels) := by
  rcases hc with hc | hc | hc <;> simp only [stream, drainBytes, handBytes, hc, List.append_nil]

theorem stream_write {e : Entry} (hc : s.consumer = .write e) :
    stream s = sentBytes s ++ (txBlock s s.txn).getD [] ++ entryBytes s.channels e ++
      (queued s).flatMap (entryBytes s.channels) := by
  simp only [stream, drainBytes, handBytes, hc]

theorem stream_dq3 {nxt : Nat} {e : Entry} (hc : s.consumer = .dq3 nxt) (he : slotRead s nxt = some e) :
    stream s = sentBytes s ++ (txBlock s s.txn).getD [] ++ entryBytes s.channels e ++
      (queued s).flatMap (entryBytes s.channels) := by
  simp only [stream, drainBytes, handBytes, hc, he, Option.map_some, Option.getD_some]

end Sys2Proof.Machine
end

section
/-! No step reorders, loses or invents a packet (spec/20_memory.md R71, 43_packetizer.md R185). -/

namespace Sys2Proof.Machine

variable {s t : State}

/-! ### The consumer's micro-steps move packets and change none -/

/-- FN4 moves the bytes of the buffer to the log, or has none to move (43_packetizer.md R178). -/
theorem stream_finishDrain (hc : s.consumer = .fn4) (hstep : finishDrain s = .next t) :
    stream { t with consumer := .idle } = stream s := by
  rw [stream_draining (.inr (.inr (.inr hc))), stream_undrained (.inl rfl)]
  rcases finishDrain_cases hstep with ⟨h0, rfl⟩ | ⟨-, bytes, hb, rfl⟩
  · have hblock : txBlock s s.txn = some [] := by rw [h0]; rfl
    rw [hblock, Option.getD_some, List.append_nil]
    rfl
  · have hsent : (s.txlog ++ [Transfer.mk bytes s.txn (decide (s.txn ≠ 64))]).flatMap Transfer.bytes =
        sentBytes s ++ bytes := by
      rw [List.flatMap_append, List.flatMap_singleton]; rfl
    rw [hb, Option.getD_some, ← hsent]
    rfl

/-- The packet write moves the packet in the hand to the buffer (43_packetizer.md R172). -/
theorem stream_appendPacket {e : Entry} {p : Packet} {bytes : List Byte} (hc : s.consumer = .write e)
    (hb : txBlock s s.txn = some bytes) (hp : entryBytes s.channels e = packetBytes p) :
    stream { appendPacket p s with consumer := .fn3 } = stream s := by
  calc stream { appendPacket p s with consumer := .fn3 }
      = sentBytes s ++ (txBlock (appendPacket p s) (appendPacket p s).txn).getD [] ++
          (queued s).flatMap (entryBytes s.channels) := stream_draining (.inl rfl)
    _ = stream s := by
      rw [stream_write hc, hb, hp, txBlock_appendPacket p hb, Option.getD_some, Option.getD_some, ← List.append_assoc]

theorem stream_consumerStep (h : Inv s) (hstep : consumerStep s = .next t) : stream t = stream s := by
  cases consumerStep_move hstep with
  | idle => rfl
  | fn1Busy hc => exact (stream_undrained (.inl rfl)).trans (stream_undrained (.inr (.inl hc))).symm
  | fn1Idle hc => exact (stream_undrained (.inr (.inr rfl))).trans (stream_undrained (.inr (.inl hc))).symm
  | fn2 hc =>
    rw [stream_undrained (.inr (.inr hc)), stream_draining (.inl rfl), txBlock, Memory.block_zero, Option.getD_some,
      List.append_nil]
    rfl
  | fn3Room hc => exact (stream_draining (.inr (.inl rfl))).trans (stream_draining (.inl hc)).symm
  | fn3Full hc => exact (stream_draining (.inr (.inr (.inr rfl)))).trans (stream_draining (.inl hc)).symm
  | dq1Empty hc => exact (stream_draining (.inr (.inr (.inr rfl)))).trans (stream_draining (.inr (.inl hc))).symm
  | dq1Entry hc => exact (stream_draining (.inr (.inr (.inl rfl)))).trans (stream_draining (.inr (.inl hc))).symm
  | dq2 hc =>
    obtain ⟨-, -, hq⟩ := (consumerOk_dq2_iff hc).1 h.consumer
    obtain ⟨e, he, -⟩ := slotLegal_iff.1 (oldest_legal h hq)
    rw [stream_draining (.inr (.inr (.inl hc))), queued_take h.indices hq he, List.flatMap_cons, ← List.append_assoc]
    exact stream_dq3 rfl he
  | dq3 hc he => exact (stream_write rfl).trans (stream_dq3 hc he).symm
  | write hc hp =>
    obtain ⟨⟨-, hw⟩, -, -⟩ := (consumerOk_write_iff hc).1 h.consumer
    obtain ⟨bytes, hb⟩ := Option.isSome_iff_exists.1 hw
    exact stream_appendPacket hc hb (by rw [entryBytes, hp])
  | fn4 hc hf => exact stream_finishDrain hc hf

/-- A run of the consumer's micro-steps changes no packet. -/
theorem stream_runPort_T (k : Nat) (h : Inv s) (hrun : runPort .T k s = .next t) :
    stream t = stream s := by
  induction k generalizing s with
  | zero => cases hrun; rfl
  | succ k ih =>
    obtain ⟨u, hstep, hu⟩ := consumerStep_completes h
    rw [runPort_T_step hstep] at hrun
    exact (ih hu hrun).trans (stream_consumerStep h hstep)

/-- FRAME_NOTIFY taken whole is its micro-steps, and those change no packet (43_packetizer.md R178). -/
theorem streamGrows_frameNotify (h : Inv s) (hc : s.consumer = .idle) (hrun : execFrameNotify s = .next t) :
    StreamGrows s t := by
  have hmicro : runPort .T 84 { s with consumer := .fn1 } = .next t := (runPort_frameNotify hc).trans hrun
  have hfn1 : Inv { s with consumer := .fn1 } := h.withConsumer (consumerOk_fn1 rfl)
  refine streamGrows_of_eq ((stream_runPort_T 84 hfn1 hmicro).trans ?_) (execFrameNotify_owned hrun).wr_eq
  rw [stream_undrained (.inl hc), stream_undrained (.inr (.inl rfl))]
  rfl

/-! ### Every operation and every event -/

theorem streamGrows_microStep {p : Port} (h : Inv s) (hstep : microStep p s = .next t) : StreamGrows s t := by
  cases p with
  | P => exact streamGrows_producerStep h hstep
  | T => exact streamGrows_of_eq (stream_consumerStep h hstep) (consumerStep_owned hstep).wr_eq

/-- DISABLE of a queue that is empty already, as it is while Disabled, takes nothing (44_mode_control.md R197). -/
theorem streamGrows_disable (h : Inv s) (hm : s.mode ≠ .enabled) :
    StreamGrows s { s with mode := .disabled, rd := s.wr, tstat := .modeOk } := by
  have hdis : s.mode = .disabled := by
    cases hmode : s.mode with
    | disabled => rfl
    | enabled => exact absurd hmode hm
  have hrd : s.rd = s.wr := h.disabled hdis
  refine streamGrows_of_part ?_
  simp only [State.streamPart, hrd]
  rfl

section
variable {i : Instr} (hcmd : i.isCommand = true) (h : Inv s) (hp : portIdle (operationPort i) s = true)
  (hm : s.mode = .enabled → t.mode = .enabled)
include hcmd h hp hm

/-- A port's operation taken whole, but for a DISABLE that ends the Enabled mode. -/
theorem streamGrows_exec (hrun : exec i s = .next t) : StreamGrows s t := by
  cases i with
  | sampleCc res ch raw =>
    have hidle : s.producer = .idle := by simpa [portIdle, operationPort] using hp
    cases hrun
    exact streamGrows_sample h hidle (.control res ch raw)
  | samplePb res raw =>
    have hidle : s.producer = .idle := by simpa [portIdle, operationPort] using hp
    cases hrun
    exact streamGrows_sample h hidle (.pitchBend res raw)
  | frameNotify => exact streamGrows_frameNotify h (by simpa [portIdle, operationPort] using hp) hrun
  | enable => cases hrun; exact streamGrows_of_part rfl
  | disable =>
    cases hrun
    exact streamGrows_disable h fun he => by cases hm he
  | enq | deq | pktCc | pktPb => cases hcmd

/-- Beginning an operation moves no packet. -/
theorem streamGrows_beginOperation (hrun : beginOperation i s = .next t) : StreamGrows s t := by
  cases i with
  | sampleCc | samplePb => cases hrun; exact streamGrows_of_part rfl
  | frameNotify =>
    have hidle : s.consumer = .idle := by simpa [portIdle, operationPort] using hp
    cases hrun
    refine streamGrows_of_eq ?_ rfl
    rw [stream_undrained (.inl hidle)]
    exact stream_undrained (.inr (.inl rfl))
  | enable | disable => exact streamGrows_exec hcmd h hp hm hrun
  | enq | deq | pktCc | pktPb => cases hcmd

end

theorem streamGrows_deliverCommand {p : Port} {w : CmdWord} {run : Instr → State → Result}
    (hrun : ∀ i : Instr, i.isCommand = true → portIdle (operationPort i) s = true → run i s = .next t →
      StreamGrows s t) (hd : deliverCommand p w run s = .next t) : StreamGrows s t := by
  rcases deliverCommand_eq_next hd with ⟨-, -, rfl⟩ | ⟨-, i, hi, hb⟩
  · exact streamGrows_of_part (setStatus_streamPart ..)
  · obtain ⟨-, -, hcmd⟩ := decodeCmd_eq_ok hi
    obtain ⟨hp, -, hnext⟩ := atBoundary_eq_next hb
    exact hrun i hcmd hp hnext

theorem streamGrows_deliver (h : Inv s) {e : Event} (he : e.external = true) (hr : e ≠ .reset)
    (hm : s.mode = .enabled → t.mode = .enabled) (hd : deliver e s = .next t) : StreamGrows s t := by
  cases e with
  | command p w => exact streamGrows_deliverCommand (fun _ hcmd hp => streamGrows_exec hcmd h hp hm) hd
  | present p w => exact streamGrows_deliverCommand (fun _ hcmd hp => streamGrows_beginOperation hcmd h hp hm) hd
  | micro p => exact streamGrows_microStep h hd
  | transferDone =>
    simp only [deliver, transferDone] at hd
    split at hd <;> cases hd
    exact streamGrows_of_part rfl
  | reset => exact absurd rfl hr
  | enterIdle =>
    simp only [deliver, enterIdle] at hd
    split at hd <;> cases hd
    exact streamGrows_of_part rfl
  | transportRead off =>
    simp only [deliver, transportRead] at hd
    split at hd <;> cases hd
    exact streamGrows_of_part rfl
  | request | record => cases he

/-- Settles O47: taking the next event off the schedule leaves the stream, and each event but RESET lets it grow by what
is published. -/
theorem streamIsKeptByEveryStep : Obligations.StreamIsKeptByEveryStep := by
  intro s t h hr hm hstep
  cases hs : s.events with
  | nil =>
    rw [step_of_empty hs] at hstep
    cases hstep
    exact streamGrows_of_part rfl
  | cons e rest =>
    obtain ⟨he, hrest⟩ := h.tail hs
    rw [step_of_cons hs] at hstep
    have hne : e ≠ .reset := fun heq => hr (by rw [hs, heq, List.head?_cons])
    exact (streamGrows_deliver hrest he hne hm hstep).congr rfl rfl

end Sys2Proof.Machine
end

section
/-! A step runs the decoded instruction, whole or begun, or the next micro-step (spec/20_memory.md R60, R65,
44_mode_control.md R193; log 2, 4, 10). -/

namespace Sys2Proof.Machine

variable {s : State}

/-- A word at its boundary is handed to the operation it decodes to. -/
theorem deliverCommand_run {p : Port} {w : CmdWord} {i : Instr} {run : Instr → State → Result}
    (hd : decodeCmd p w = .ok i) (hp : portIdle p s = true) (hm : changesMode i = true → portsIdle s = true) :
    deliverCommand p w run s = run i s := by
  obtain ⟨-, rfl, -⟩ := decodeCmd_eq_ok hd
  rw [deliverCommand, if_neg (by simp [hp]), hd]
  exact atBoundary_run hp hm

/-- ENABLE and DISABLE are one step at either grain (44_mode_control.md R193). -/
theorem beginOperation_of_changesMode {i : Instr} (hm : changesMode i = true) (s : State) :
    beginOperation i s = exec i s := by
  cases i with
  | enable | disable => rfl
  | sampleCc | samplePb | frameNotify | enq | deq | pktCc | pktPb => cases hm

/-- A packet record is an operation of the consumer (30_encoding.md R89, R90). -/
theorem decodePkt_operationPort {w : PktWord} {i : Instr} (h : decodePkt w = .ok i) : operationPort i = .T := by
  unfold decodePkt at h
  split at h
  · cases h
  split at h
  · cases h; rfl
  split at h <;> cases h
  rfl

theorem deliverRequest_run {q : QReqWord} {i : Instr} (hd : decodeQreq q = .ok i)
    (hp : portIdle (operationPort i) s = true) : deliverRequest q s = exec i s := by
  simp only [deliverRequest, hd]
  exact atBoundary_run hp fun hm => by cases (decodeQreq_changesMode hd).symm.trans hm

theorem deliverRecord_run {w : PktWord} {i : Instr} (hd : decodePkt w = .ok i) (hp : portIdle .T s = true) :
    deliverRecord w s = exec i s := by
  simp only [deliverRecord, hd]
  exact atBoundary_run (decodePkt_operationPort hd ▸ hp) fun hm => by cases (decodePkt_changesMode hd).symm.trans hm

/-- Whether a port is idle is no matter of the schedule. -/
theorem portIdle_withEvents (p : Port) (es : List Event) (s : State) :
    portIdle p { s with events := es } = portIdle p s := by
  cases p <;> rfl

/-- Settles O5: the next event comes off the schedule and is delivered, and each kind of word runs at its boundary. -/
theorem stepRunsTheDecodedInstruction : Obligations.StepRunsTheDecodedInstruction := by
  refine ⟨fun s => step_of_empty, fun s p w rest i hs hd hp hm => ?_, fun s p w rest i hs hd hp hm => ?_,
    fun s i hm => beginOperation_of_changesMode hm s, fun s p rest hs => step_of_cons hs,
    fun s q rest i hs hd hp => ?_, fun s w rest i hs hd hp => ?_⟩ <;>
    rw [step_of_cons hs] <;> rw [← portIdle_withEvents _ rest] at hp
  · exact deliverCommand_run hd hp hm
  · exact deliverCommand_run hd hp hm
  · exact deliverRequest_run hd hp
  · exact deliverRecord_run hd hp

end Sys2Proof.Machine
end

section
/-! Which state the micro-steps of each agent may write, and which places of a memory (spec/20_memory.md R61, R54,
R56). -/

namespace Sys2Proof.Machine

variable {s t : State}

/-! ### The places the producer leaves alone -/

theorem slotRead_of_part (h : t.streamPart = s.streamPart) (j : Nat) : slotRead t j = slotRead s j := by
  have hslots : t.slots = s.slots := congrArg (fun p => p.2.1.2.2) h
  rw [slotRead, slotRead, hslots]

/-- Of the slots the producer writes only the one its EQ2 names (R54). -/
theorem slotRead_producerStep (h : producerStep s = .next t) {j : Nat} (hj : ∀ r, s.producer ≠ .eq2 r j) :
    slotRead t j = slotRead s j := by
  cases producerStep_move h with
  | idle | eq1Full | eq1Room | eq3 => rfl
  | @sampled op =>
    exact slotRead_of_part ((afterFront_streamPart _).trans (sampleFront_streamPart op s)) j
  | eq2 hp => exact Memory.read_write_other _ _ _ _ fun he => hj _ (he ▸ hp)
  | @answered r ok => exact slotRead_of_part (settle_streamPart r ok s) j

/-- SAMPLE_CC's own lines write no register but that of the channel they prime (40_quantizer.md R114). -/
theorem quantizerFront_lrv_other (res : SamplerResult) {ch : BitVec 8} (raw : RawSample) (s : State) {j : Nat}
    (hj : ch.toNat ≠ j) : (quantizerFront res ch raw s).1.lrv[j]? = s.lrv[j]? := by
  rcases quantizerFront_cases res ch raw s with
    ⟨-, hf⟩ | ⟨-, -, hf⟩ | ⟨-, -, -, hf⟩ | ⟨-, -, -, -, hf⟩ | ⟨-, -, -, -, hf⟩ <;> rw [hf]
  exact List.getElem?_set_ne hj

/-- SAMPLE_PB's own lines write none (41_pitchbend.md R136). -/
theorem pitchBendFront_lrv (res : SamplerResult) (raw : RawSample) (s : State) :
    (pitchBendFront res raw s).1.lrv = s.lrv := by
  rcases pitchBendFront_cases res raw s with ⟨-, hf⟩ | ⟨-, hf⟩ | ⟨-, -, -, hf⟩ | ⟨-, -, hf⟩ <;> rw [hf]

@[simp] theorem afterFront_lrv (front : State × Option Report) : (afterFront front).lrv = front.1.lrv := by
  obtain ⟨s, _ | r⟩ := front <;> rfl

/-- ENQ's answer writes only the register of a control report that was accepted (40_quantizer.md R115). -/
theorem settle_lrv_other (r : Report) (ok : Bool) (s : State) {j : Nat}
    (hj : ∀ ch cand, r = .control ch cand → ok = true → ch.toNat ≠ j) :
    (settle r ok s).lrv[j]? = s.lrv[j]? := by
  cases ok with
  | false => rw [settle_full]
  | true =>
    cases r with
    | control ch cand => exact List.getElem?_set_ne (hj ch cand rfl rfl)
    | pitchBend v => rfl

/-- The producer writes no other `lrv` (R61). -/
theorem lrv_producerStep (h : producerStep s = .next t) {j : Nat}
    (hs : ∀ res ch raw, s.producer = .sampled (.control res ch raw) → ch.toNat ≠ j)
    (ha : ∀ ch cand, s.producer = .answered (.control ch cand) true → ch.toNat ≠ j) :
    t.lrv[j]? = s.lrv[j]? := by
  cases producerStep_move h with
  | idle | eq1Full | eq1Room | eq2 | eq3 => rfl
  | @sampled op hp =>
    rw [afterFront_lrv]
    cases op with
    | control res ch raw => exact quantizerFront_lrv_other res raw s (hs res ch raw hp)
    | pitchBend res raw => exact congrArg (·[j]?) (pitchBendFront_lrv res raw s)
  | answered hp => exact settle_lrv_other _ _ s fun ch cand hr hok => ha ch cand (by rw [hp, hr, hok])

/-! ### The bytes the consumer leaves alone -/

/-- Only the packet write writes the buffer, and there four bytes (R56, 43_packetizer.md R172). -/
theorem txRead_consumerStep (h : consumerStep s = .next t) {off : Nat}
    (hoff : ∀ e, s.consumer = .write e → off < s.txn ∨ s.txn + 4 ≤ off) : txRead t off = txRead s off := by
  cases consumerStep_move h with
  | idle | fn1Busy | fn1Idle | fn2 | fn3Room | fn3Full | dq1Empty | dq1Entry | dq2 | dq3 => rfl
  | @write e p hc =>
    have hout : ¬ (s.txn ≤ off ∧ off < s.txn + 4) := by have := hoff e hc; omega
    exact (txRead_appendPacket p s off).trans (if_neg hout)
  | fn4 hc hf => rcases finishDrain_cases hf with ⟨-, rfl⟩ | ⟨-, bytes, -, rfl⟩ <;> rfl

/-- Settles O28: each agent's fields, then the places. -/
theorem eachAgentWritesOnlyItsOwnState : Obligations.EachAgentWritesOnlyItsOwnState :=
  ⟨fun _ _ h => ⟨producerStep_owned h, fun _ => slotRead_producerStep h, fun _ => lrv_producerStep h⟩,
    fun _ _ h => ⟨consumerStep_owned h, fun _ => txRead_consumerStep h⟩⟩

end Sys2Proof.Machine
end

section
/-! No operation in progress ever waits (spec/20_memory.md R68, 70_reset_and_hazards.md R244): every micro-step moves
its port's phase. -/

namespace Sys2Proof.Machine

variable {s t : State}

/-- The filters' lines end the operation or lead to EQ1. -/
theorem afterFront_producer (front : State × Option Report) (op : SampleOp) :
    (afterFront front).producer ≠ .sampled op := by
  rcases front with ⟨u, _ | r⟩ <;> nofun

theorem producerStep_moves (hne : s.producer ≠ .idle) (h : producerStep s = .next t) : t.producer ≠ s.producer := by
  cases producerStep_move h with
  | idle hp => exact absurd hp hne
  | sampled hp => rw [hp]; exact afterFront_producer _ _
  | eq1Full hp | eq1Room hp | eq2 hp | eq3 hp | answered hp => rw [hp]; nofun

theorem consumerStep_moves (hne : s.consumer ≠ .idle) (h : consumerStep s = .next t) : t.consumer ≠ s.consumer := by
  cases consumerStep_move h with
  | idle hc => exact absurd hc hne
  | fn1Busy hc | fn1Idle hc | fn2 hc | fn3Room hc | fn3Full hc | dq1Empty hc | dq1Entry hc | dq2 hc | dq3 hc
  | write hc | fn4 hc => rw [hc]; nofun

/-- Settles O30: the micro-step completes, and it moves the phase of a port that is not idle. -/
theorem noMicroStepEverWaits : Obligations.NoMicroStepEverWaits := by
  intro s p h
  obtain ⟨t, ht, -⟩ := microStep_completes h p
  refine ⟨t, ht, fun hbusy he => ?_⟩
  subst he
  cases p with
  | P => exact producerStep_moves (by simpa [portIdle] using hbusy) ht rfl
  | T => exact consumerStep_moves (by simpa [portIdle] using hbusy) ht rfl

end Sys2Proof.Machine
end

section
/-! While a transfer is in flight nothing writes the transmit buffer (spec/20_memory.md R70, 43_packetizer.md R171,
R184): the producer never does, and no drain runs. -/

namespace Sys2Proof.Machine

variable {s t : State}

/-- The buffer, the bytes in it and the log: what a transfer in flight holds (R70). -/
def State.buffer (s : State) : List Host.Cell × Nat × List Transfer := (s.tx, s.txn, s.txlog)

theorem OnlyOwned.buffer_eq (h : OnlyOwned .P s t) : t.buffer = s.buffer := by
  have hbuf : t.buffer = (withOwned .P t s).buffer := congrArg State.buffer h
  exact hbuf

theorem execFrameNotify_busy (hb : s.epBusy = true) : execFrameNotify s = .next (setStatus .T .endpointBusy s) :=
  if_pos hb

section
variable {i : Instr} (hcmd : i.isCommand = true) (hb : s.epBusy = true)
include hcmd hb

/-- A port's operation, taken whole: a notification finds the endpoint busy (43_packetizer.md R171). -/
theorem exec_buffer (h : exec i s = .next t) : t.buffer = s.buffer := by
  cases i with
  | sampleCc | samplePb => exact (exec_owned rfl h).buffer_eq
  | frameNotify => cases (execFrameNotify_busy hb).symm.trans h; rfl
  | enable | disable => cases h; rfl
  | enq | deq | pktCc | pktPb => cases hcmd

theorem beginOperation_buffer (h : beginOperation i s = .next t) : t.buffer = s.buffer := by
  cases i with
  | sampleCc | samplePb | frameNotify => cases h; rfl
  | enable | disable => exact exec_buffer hcmd hb h
  | enq | deq | pktCc | pktPb => cases hcmd

end

theorem deliverCommand_buffer {p : Port} {w : CmdWord} {run : Instr → State → Result}
    (hrun : ∀ i : Instr, i.isCommand = true → run i s = .next t → t.buffer = s.buffer)
    (h : deliverCommand p w run s = .next t) : t.buffer = s.buffer := by
  rcases deliverCommand_eq_next h with ⟨-, -, rfl⟩ | ⟨-, i, hi, hb⟩
  · cases p <;> rfl
  · obtain ⟨-, -, hcmd⟩ := decodeCmd_eq_ok hi
    obtain ⟨-, -, hnext⟩ := atBoundary_eq_next hb
    exact hrun i hcmd hnext

/-- The consumer is idle or at its busy check (43_packetizer.md R184). -/
theorem consumerStep_buffer (h : Inv s) (hb : s.epBusy = true) (hstep : consumerStep s = .next t) :
    t.buffer = s.buffer := by
  rcases consumer_of_busy h.consumer hb with hc | hc
  · rw [consumerStep_idle hc] at hstep; cases hstep; rfl
  · rw [consumerStep_fn1_busy hc hb] at hstep; cases hstep; rfl

/-- Every event but the two that end the transfer leaves the buffer to it. -/
theorem deliver_buffer (h : Inv s) {e : Event} (he : e.external = true) (hb : s.epBusy = true)
    (hb' : t.epBusy = true) (hd : deliver e s = .next t) : t.buffer = s.buffer := by
  cases e with
  | command p w => exact deliverCommand_buffer (fun _ hcmd => exec_buffer hcmd hb) hd
  | present p w => exact deliverCommand_buffer (fun _ hcmd => beginOperation_buffer hcmd hb) hd
  | micro p =>
    cases p with
    | P => exact (producerStep_owned hd).buffer_eq
    | T => exact consumerStep_buffer h hb hd
  | transferDone =>
    simp only [deliver, transferDone, if_pos hb] at hd
    cases hd
    cases hb'
  | reset =>
    simp only [deliver, resetStep] at hd
    split at hd <;> cases hd
    cases hb'
  | enterIdle =>
    simp only [deliver, enterIdle] at hd
    split at hd <;> cases hd
    rfl
  | transportRead off =>
    simp only [deliver, transportRead] at hd
    split at hd <;> cases hd
    rfl
  | request | record => cases he

/-- Settles O50: every event that leaves the transfer in flight leaves its buffer. -/
theorem bufferIsUntouchedInFlight : Obligations.BufferIsUntouchedInFlight := by
  intro s t h hb hb' hstep
  have hbuf : t.buffer = s.buffer := by
    cases hs : s.events with
    | nil => rw [step_of_empty hs] at hstep; cases hstep; rfl
    | cons e rest =>
      obtain ⟨he, hrest⟩ := h.tail hs
      rw [step_of_cons hs] at hstep
      exact deliver_buffer (s := { s with events := rest }) hrest he hb hb' hstep
  simpa only [State.buffer, Prod.mk.injEq] using hbuf

end Sys2Proof.Machine
end

section
/-! SUPPORT. The rest of an ENQ and of a DEQ in progress, taken whole (spec/20_memory.md R65, 42_event_queue.md R152,
R155): from EQ1 and from DQ1 it is the whole request, and each micro-step leaves what its own request still has to do
as it was. -/

namespace Sys2Proof.Machine

open Sys2Proof.Claims

variable {s t u : State}

/-- The micro-steps of an ENQ (42_event_queue.md R152). -/
def enqueuing : ProducerPhase → Bool
  | .eq1 _ | .eq2 _ _ | .eq3 _ _ => true
  | .idle | .sampled _ | .answered _ _ => false

/-- The micro-steps of a DEQ (42_event_queue.md R155). -/
def dequeuing : ConsumerPhase → Bool
  | .dq1 | .dq2 | .dq3 _ => true
  | .idle | .fn1 | .fn2 | .fn3 | .write _ | .fn4 => false

/-! ### The rest of an ENQ -/

/-- What is left of the ENQ in progress, as one step; nothing where none is. -/
def enqRest (s : State) : State :=
  match s.producer with
  | .eq1 r => wholeEnq r s
  | .eq2 r nxt => { eq3 nxt (eq2 (reportEntry r) nxt s) with producer := .answered r true }
  | .eq3 r nxt => { eq3 nxt s with producer := .answered r true }
  | .idle | .sampled _ | .answered _ _ => s

theorem wholeEnq_full {r : Report} (hf : QueueFull s) :
    wholeEnq r s = { answerEnq false s with producer := .answered r false } := by
  rw [wholeEnq, enqueue_full hf]; rfl

theorem wholeEnq_room {r : Report} (hf : ¬ QueueFull s) :
    wholeEnq r s = { eq3 (advance s.capacity s.wr) (eq2 (reportEntry r) (advance s.capacity s.wr) s) with
      producer := .answered r true } := by
  rw [wholeEnq, enqueue_success hf]; rfl

theorem enqRest_eq1 {r : Report} (hp : s.producer = .eq1 r) : enqRest s = wholeEnq r s := by simp only [enqRest, hp]

theorem enqRest_eq2 {r : Report} {nxt : Nat} (hp : s.producer = .eq2 r nxt) :
    enqRest s = { eq3 nxt (eq2 (reportEntry r) nxt s) with producer := .answered r true } := by
  simp only [enqRest, hp]

theorem enqRest_eq3 {r : Report} {nxt : Nat} (hp : s.producer = .eq3 r nxt) :
    enqRest s = { eq3 nxt s with producer := .answered r true } := by
  simp only [enqRest, hp]

theorem enqRest_self (hp : enqueuing s.producer = false) : enqRest s = s := by
  cases hprod : s.producer <;> rw [hprod] at hp <;> simp only [enqRest, hprod] <;> cases hp

theorem enqRest_owned (s : State) : OnlyOwned .P s (enqRest s) := by
  cases hp : s.producer with
  | eq1 r => rw [enqRest_eq1 hp]; exact (enqueue_owned (reportEntry r) s).trans rfl
  | eq2 r nxt => rw [enqRest_eq2 hp]; rfl
  | eq3 r nxt => rw [enqRest_eq3 hp]; rfl
  | idle | sampled | answered => rw [enqRest_self (by rw [hp]; rfl)]; rfl

/-- An ENQ reads nothing of the consumer's but `rd`. -/
theorem enqRest_withConsumer (s : State) (da : Option AnswerWord) (c : ConsumerPhase) :
    enqRest { s with deqAnswer := da, consumer := c } = { enqRest s with deqAnswer := da, consumer := c } := by
  obtain ⟨p, hp⟩ : ∃ p, s.producer = p := ⟨_, rfl⟩
  have hp' : ({ s with deqAnswer := da, consumer := c } : State).producer = p := hp
  cases p with
  | eq1 r =>
    rw [enqRest_eq1 hp, enqRest_eq1 hp']
    by_cases hf : QueueFull s
    · rw [wholeEnq_full hf]; exact wholeEnq_full (s := { s with deqAnswer := da, consumer := c }) hf
    · rw [wholeEnq_room hf]; exact wholeEnq_room (s := { s with deqAnswer := da, consumer := c }) hf
  | eq2 r nxt => rw [enqRest_eq2 hp, enqRest_eq2 hp']; rfl
  | eq3 r nxt => rw [enqRest_eq3 hp, enqRest_eq3 hp']; rfl
  | idle | sampled | answered => rw [enqRest_self (by rw [hp]; rfl), enqRest_self (by rw [hp']; rfl)]

/-- An ENQ writes neither the slot at `rd` nor `rd` into `wr` (20_memory.md R65 (c)). -/
theorem enqRest_spares_rd (h : Inv s) :
    slotRead (enqRest s) s.rd = slotRead s s.rd ∧ (¬ QueueEmpty s → ¬ QueueEmpty (enqRest s)) := by
  have hok := h.producer
  cases hp : s.producer with
  | eq1 r =>
    rw [enqRest_eq1 hp]
    by_cases hf : QueueFull s
    · rw [wholeEnq_full hf]; exact ⟨rfl, id⟩
    · rw [wholeEnq_room hf]; exact ⟨Memory.read_write_other _ _ _ _ (Ne.symm hf), fun _ => Ne.symm hf⟩
  | eq2 r nxt =>
    obtain ⟨-, rfl, hf⟩ := (producerOk_eq2_iff hp).1 hok
    rw [enqRest_eq2 hp]
    exact ⟨Memory.read_write_other _ _ _ _ (Ne.symm hf), fun _ => Ne.symm hf⟩
  | eq3 r nxt =>
    obtain ⟨-, ⟨rfl, hf⟩, -⟩ := (producerOk_eq3_iff hp).1 hok
    rw [enqRest_eq3 hp]
    exact ⟨rfl, fun _ => Ne.symm hf⟩
  | idle | sampled | answered =>
    rw [enqRest_self (by rw [hp]; rfl)]
    exact ⟨rfl, id⟩

/-! ### The rest of a DEQ -/

/-- What is left of the DEQ in progress, as one step; nothing where none is. -/
def deqRest (s : State) : Result :=
  match s.consumer with
  | .dq1 => wholeDeq s
  | .dq2 => andThen (dq3 (advance s.capacity s.rd) (dq2 s)) fun r => .next { r.1 with consumer := .write r.2 }
  | .dq3 nxt => andThen (dq3 nxt s) fun r => .next { r.1 with consumer := .write r.2 }
  | .idle | .fn1 | .fn2 | .fn3 | .write _ | .fn4 => .next s

theorem deqRest_dq1 (hc : s.consumer = .dq1) : deqRest s = wholeDeq s := by simp only [deqRest, hc]

theorem deqRest_dq1_empty (hc : s.consumer = .dq1) (hq : QueueEmpty s) :
    deqRest s = .next { s with deqAnswer := some (answerWord false 0#24), consumer := .fn4 } := by
  rw [deqRest_dq1 hc, wholeDeq, dequeue_empty hq]; rfl

/-- DQ1 of a queue with an entry reads and changes nothing but the phase. -/
theorem deqRest_dq1_entry (hc : s.consumer = .dq1) (hq : ¬ QueueEmpty s) :
    deqRest s = deqRest { s with consumer := .dq2 } := by
  rw [deqRest_dq1 hc, wholeDeq, dequeue, if_neg hq, andThen_assoc]
  simp only [deqRest, dq3]
  cases he : slotRead (dq2 s) (advance s.capacity s.rd) with
  | none =>
    have he' : slotRead (dq2 { s with consumer := .dq2 }) (advance s.capacity s.rd) = none := he
    rw [he']; rfl
  | some e =>
    have he' : slotRead (dq2 { s with consumer := .dq2 }) (advance s.capacity s.rd) = some e := he
    rw [he']; rfl

theorem deqRest_dq2 {e : Entry} (hc : s.consumer = .dq2) (he : slotRead s (advance s.capacity s.rd) = some e) :
    deqRest s =
      .next { s with
        rd := advance s.capacity s.rd, deqAnswer := some (answerWord true e.word), consumer := .write e } := by
  have he' : slotRead (dq2 s) (advance s.capacity s.rd) = some e := he
  simp only [deqRest, hc, dq3, he']; rfl

theorem deqRest_dq3 {nxt : Nat} {e : Entry} (hc : s.consumer = .dq3 nxt) (he : slotRead s nxt = some e) :
    deqRest s = .next { s with deqAnswer := some (answerWord true e.word), consumer := .write e } := by
  simp only [deqRest, hc, dq3, he]; rfl

theorem deqRest_self (hc : dequeuing s.consumer = false) : deqRest s = .next s := by
  cases hcons : s.consumer <;> rw [hcons] at hc <;> simp only [deqRest, hcons] <;> cases hc

theorem deqRest_owned (hd : deqRest s = .next t) : OnlyOwned .T s t := by
  have hdq3 : ∀ {v : State} {nxt : Nat}, (andThen (dq3 nxt v) fun r => .next { r.1 with consumer := .write r.2 }) =
      .next t → OnlyOwned .T v t := fun hv => by
    obtain ⟨⟨w, e⟩, hw, ht⟩ := andThen_eq_next.1 hv
    obtain ⟨-, rfl⟩ := dq3_eq_next hw
    cases ht
    rfl
  cases hc : s.consumer with
  | dq1 =>
    rw [deqRest_dq1 hc] at hd
    obtain ⟨⟨w, o⟩, hw, ht⟩ := andThen_eq_next.1 hd
    cases o <;> cases ht <;> exact (dequeue_owned hw).trans rfl
  | dq2 =>
    simp only [deqRest, hc] at hd
    have htake : OnlyOwned .T s (dq2 s) := rfl
    exact htake.trans (hdq3 hd)
  | dq3 nxt => simp only [deqRest, hc] at hd; exact hdq3 hd
  | idle | fn1 | fn2 | fn3 | write | fn4 => rw [deqRest_self (by rw [hc]; rfl)] at hd; cases hd; rfl

/-- With room in the queue, a DEQ answers the same whatever the producer has written to the slot after `wr`, and does
not fill the queue (20_memory.md R65 (c)). -/
theorem deqRest_frame (h : Inv s) (hf : ¬ QueueFull s) {m : List (Nat × Entry)} (p : ProducerPhase)
    (hm : ∀ i, i ≠ advance s.capacity s.wr → Memory.read m i = slotRead s i) :
    ∃ r da c, advance s.capacity s.wr ≠ r ∧
      deqRest s = .next { s with rd := r, deqAnswer := da, consumer := c } ∧
      deqRest { s with slots := m, producer := p } =
        .next { s with slots := m, producer := p, rd := r, deqAnswer := da, consumer := c } := by
  have htake : ¬ QueueEmpty s → ∃ e, advance s.capacity s.wr ≠ advance s.capacity s.rd ∧
      slotRead s (advance s.capacity s.rd) = some e ∧ Memory.read m (advance s.capacity s.rd) = some e := fun hq => by
    obtain ⟨e, he, -⟩ := slotLegal_iff.1 (oldest_legal h hq)
    have hne : advance s.capacity s.wr ≠ advance s.capacity s.rd := fun heq =>
      hq ((advance_inj h.indices.2 h.indices.1).1 heq).symm
    exact ⟨e, hne, he, (hm _ hne.symm).trans he⟩
  obtain ⟨c, hc⟩ : ∃ c, s.consumer = c := ⟨_, rfl⟩
  have hc' : ({ s with slots := m, producer := p } : State).consumer = c := hc
  cases c with
  | dq1 =>
    by_cases hq : QueueEmpty s
    · exact ⟨s.rd, _, _, hf, deqRest_dq1_empty hc hq, deqRest_dq1_empty hc' hq⟩
    · obtain ⟨e, hne, he, he'⟩ := htake hq
      have hdq2 := deqRest_dq2 (s := { s with slots := m, producer := p, consumer := .dq2 }) rfl he'
      exact ⟨_, _, _, hne, (deqRest_dq1_entry hc hq).trans (deqRest_dq2 rfl he),
        (deqRest_dq1_entry hc' hq).trans hdq2⟩
  | dq2 =>
    obtain ⟨-, -, hq⟩ := (consumerOk_dq2_iff hc).1 h.consumer
    obtain ⟨e, hne, he, he'⟩ := htake hq
    exact ⟨_, _, _, hne, deqRest_dq2 hc he, deqRest_dq2 hc' he'⟩
  | dq3 nxt =>
    obtain ⟨-, -, rfl, hl⟩ := (consumerOk_dq3_iff hc).1 h.consumer
    obtain ⟨e, he, -⟩ := slotLegal_iff.1 hl
    exact ⟨s.rd, _, _, hf, deqRest_dq3 hc he, deqRest_dq3 hc' ((hm _ (Ne.symm hf)).trans he)⟩
  | idle | fn1 | fn2 | fn3 | write | fn4 =>
    exact ⟨s.rd, s.deqAnswer, s.consumer, hf, deqRest_self (by rw [hc]; rfl), deqRest_self (by rw [hc']; rfl)⟩

end Sys2Proof.Machine
end

section
/-! Every interleaving of one ENQ and one DEQ ends as one of the two orders of the whole requests does
(spec/20_memory.md R65). Read backwards from the end, each micro-step keeps "one of the two orders leads to it": only a
micro-step that answers a request, and DQ2, after which the two orders agree, fix an order. -/

namespace Sys2Proof.Machine

open Sys2Proof.Claims

variable {s t u : State}

/-- One of the two orders of what is left of the two requests leads from `s` to `t`. -/
def EndsInAnOrder (s t : State) : Prop :=
  deqRest (enqRest s) = .next t ∨ andThen (deqRest s) (fun u => .next (enqRest u)) = .next t

/-! ### Where the two orders agree -/

/-- Once ENQ has answered, only the DEQ is left. -/
theorem EndsInAnOrder.of_enqueued (h : EndsInAnOrder s t) (hp : enqueuing s.producer = false) :
    deqRest s = .next t := by
  rcases h with h | h
  · rwa [enqRest_self hp] at h
  · obtain ⟨u, hu, hut⟩ := andThen_eq_next.1 h
    have hprod : enqueuing u.producer = false := (deqRest_owned hu).producer_eq ▸ hp
    rwa [enqRest_self hprod, ← hu] at hut

/-- Once DEQ has answered, only the ENQ is left. -/
theorem EndsInAnOrder.of_dequeued (h : EndsInAnOrder s t) (hc : dequeuing s.consumer = false) : enqRest s = t := by
  rcases h with h | h
  · have hcons : dequeuing (enqRest s).consumer = false := (enqRest_owned s).consumer_eq ▸ hc
    rw [deqRest_self hcons] at h
    exact Host.Outcome.next.inj h
  · rw [deqRest_self hc, andThen_next] at h
    exact Host.Outcome.next.inj h

/-- At DQ3 both orders lead to one state: an ENQ does not write the slot DQ3 reads (20_memory.md R65 (c)). -/
theorem EndsInAnOrder.of_dq3 (h : EndsInAnOrder s t) (hi : Inv s) {nxt : Nat} (hc : s.consumer = .dq3 nxt) :
    andThen (deqRest s) (fun u => .next (enqRest u)) = .next t := by
  refine h.elim (fun h => ?_) id
  obtain ⟨-, -, rfl, hl⟩ := (consumerOk_dq3_iff hc).1 hi.consumer
  obtain ⟨e, he, -⟩ := slotLegal_iff.1 hl
  obtain ⟨hread, -⟩ := enqRest_spares_rd hi
  have hcons : (enqRest s).consumer = .dq3 s.rd := (enqRest_owned s).consumer_eq.trans hc
  rw [deqRest_dq3 hcons (hread.trans he)] at h
  rw [deqRest_dq3 hc he, andThen_next, enqRest_withConsumer, h]

/-! ### A micro-step of the producer -/

/-- A micro-step of an ENQ fixes no order but by its answer: EQ1 and EQ2 are unseen by a DEQ. -/
theorem EndsInAnOrder.of_producerStep (hi : Inv s) (hp : enqueuing s.producer = true)
    (hstep : producerStep s = .next u) (h : EndsInAnOrder u t) : EndsInAnOrder s t := by
  cases producerStep_move hstep with
  | idle hp' | sampled hp' | answered hp' => rw [hp'] at hp; cases hp
  | eq1Full hp' hf =>
    refine .inl ?_
    rw [enqRest_eq1 hp', wholeEnq_full hf]
    exact h.of_enqueued rfl
  | eq3 hp' =>
    refine .inl ?_
    rw [enqRest_eq3 hp']
    exact h.of_enqueued rfl
  | @eq1Room r hp' hf =>
    obtain ⟨rd, da, c, hne, hs, hu⟩ := deqRest_frame hi hf (m := s.slots) (.eq2 r _) fun _ _ => rfl
    refine h.imp (fun h => ?_) fun h => ?_
    · rw [enqRest_eq1 hp', wholeEnq_room hf]
      exact h
    · rw [hu, andThen_next] at h
      have hrest := enqRest_eq1 (s := { s with rd := rd, deqAnswer := da, consumer := c }) hp'
      rw [wholeEnq_room hne] at hrest
      rw [hs, andThen_next, hrest]
      exact h
  | @eq2 r nxt hp' =>
    obtain ⟨-, rfl, hf⟩ := (producerOk_eq2_iff hp').1 hi.producer
    obtain ⟨rd, da, c, hne, hs, hu⟩ := deqRest_frame hi hf (.eq3 r _)
      fun i hne => Memory.read_write_other s.slots _ i (reportEntry r) hne
    refine h.imp (fun h => ?_) fun h => ?_
    · rw [enqRest_eq2 hp']
      exact h
    · rw [hu, andThen_next] at h
      have hrest := enqRest_eq2 (s := { s with rd := rd, deqAnswer := da, consumer := c }) hp'
      rw [hs, andThen_next, hrest]
      exact h

/-! ### A micro-step of the consumer -/

/-- A micro-step of a DEQ fixes no order but by its answer and by DQ2: DQ1 of a queue with an entry is unseen by an
ENQ. -/
theorem EndsInAnOrder.of_consumerStep (hi : Inv s) (hiu : Inv u) (hc : dequeuing s.consumer = true)
    (hstep : consumerStep s = .next u) (h : EndsInAnOrder u t) : EndsInAnOrder s t := by
  cases consumerStep_move hstep with
  | idle hc' | fn1Busy hc' | fn1Idle hc' | fn2 hc' | fn3Room hc' | fn3Full hc' | write hc' | fn4 hc' =>
    rw [hc'] at hc; cases hc
  | dq1Empty hc' hq =>
    refine .inr ?_
    rw [deqRest_dq1_empty hc' hq, andThen_next, h.of_dequeued rfl]
  | dq3 hc' he =>
    refine .inr ?_
    rw [deqRest_dq3 hc' he, andThen_next, h.of_dequeued rfl]
  | dq2 hc' =>
    obtain ⟨-, -, hq⟩ := (consumerOk_dq2_iff hc').1 hi.consumer
    obtain ⟨e, he, -⟩ := slotLegal_iff.1 (oldest_legal hi hq)
    have hread := deqRest_dq3 (s := { dq2 s with consumer := .dq3 (advance s.capacity s.rd) }) rfl he
    refine .inr ?_
    rw [deqRest_dq2 hc' he, ← h.of_dq3 hiu rfl]
    exact congrArg (andThen · _) hread.symm
  | dq1Entry hc' hq =>
    obtain ⟨-, hne⟩ := enqRest_spares_rd hi
    have hcons : (enqRest s).consumer = .dq1 := (enqRest_owned s).consumer_eq.trans hc'
    refine h.imp (fun h => ?_) fun h => ?_
    · rw [deqRest_dq1_entry hcons (hne hq)]
      rwa [enqRest_withConsumer s s.deqAnswer .dq2] at h
    · rwa [deqRest_dq1_entry hc' hq]

/-! ### Whole interleavings -/

theorem runMicro_cons (p : Port) (order : List Port) (s : State) :
    runMicro (p :: order) s = andThen (microStep p s) (runMicro order) := rfl

/-- A micro-step of one port leaves the other port's phase. -/
theorem microStep_portIdle {p q : Port} (hp : portIdle p s = true) (h : microStep q s = .next u) :
    portIdle p u = true := by
  by_cases hpq : q = p
  · subst hpq
    cases (microStep_idle hp).symm.trans h
    exact hp
  · have howned := microStep_owned h
    cases p <;> cases q
    · exact absurd rfl hpq
    · rw [portIdle, howned.producer_eq]; exact hp
    · rw [portIdle, howned.consumer_eq]; exact hp
    · exact absurd rfl hpq

theorem runMicro_portIdle {p : Port} {order : List Port} (hp : portIdle p s = true)
    (h : runMicro order s = .next t) : portIdle p t = true := by
  induction order generalizing s with
  | nil => cases h; exact hp
  | cons q order ih =>
    obtain ⟨u, hu, hut⟩ := andThen_eq_next.1 h
    exact ih (microStep_portIdle hp hu) hut

/-- The consumer's phase leaves at most `n` micro-steps before it is past DEQ's answer: an interleaving of one DEQ and
nothing after it. An empty queue's answer is followed by the end of the drain, after which nothing happens. -/
def DeqFits (n : Nat) : ConsumerPhase → Prop
  | .dq1 => n ≤ 3
  | .dq2 => n ≤ 2
  | .dq3 _ => n ≤ 1
  | .write _ => n = 0
  | .fn4 | .idle => True
  | .fn1 | .fn2 | .fn3 => False

theorem DeqFits.of_consumerStep {n : Nat} (h : DeqFits (n + 1) s.consumer) (hstep : consumerStep s = .next u) :
    DeqFits n u.consumer := by
  cases consumerStep_move hstep with
  | idle hc => rw [hc]; trivial
  | fn1Busy | fn4 | dq1Empty => trivial
  | fn1Idle hc | fn2 hc | fn3Room hc | fn3Full hc => rw [hc] at h; exact h.elim
  | dq1Entry hc | dq2 hc => rw [hc] at h; exact Nat.le_of_succ_le_succ h
  | dq3 hc => rw [hc] at h; exact Nat.le_zero.1 (Nat.le_of_succ_le_succ h)
  | write hc => rw [hc] at h; cases h

/-- A consumer past DEQ's answer that moves again becomes idle. -/
theorem portIdle_of_consumerStep {n : Nat} (h : DeqFits (n + 1) s.consumer) (hc : dequeuing s.consumer = false)
    (hstep : consumerStep s = .next u) : portIdle .T u = true := by
  cases consumerStep_move hstep with
  | idle hc' => rw [portIdle, hc']; rfl
  | fn1Busy | fn4 => rfl
  | fn1Idle hc' | fn2 hc' | fn3Room hc' | fn3Full hc' => rw [hc'] at h; exact h.elim
  | dq1Empty hc' | dq1Entry hc' | dq2 hc' | dq3 hc' => rw [hc'] at hc; cases hc
  | write hc' => rw [hc'] at h; cases h

/-- A producer past ENQ's answer that moves again becomes idle. -/
theorem portIdle_of_producerStep (hs : ∀ op, s.producer ≠ .sampled op) (hp : enqueuing s.producer = false)
    (hstep : producerStep s = .next u) : portIdle .P u = true := by
  cases producerStep_move hstep with
  | idle hp' => rw [portIdle, hp']; rfl
  | sampled hp' => exact absurd hp' (hs _)
  | eq1Full hp' | eq1Room hp' | eq2 hp' | eq3 hp' => rw [hp'] at hp; cases hp
  | answered => rfl

/-- Only the acceptance of an operation leads to the filter's lines. -/
theorem producerStep_notSampled (hs : ∀ op, s.producer ≠ .sampled op) (hstep : producerStep s = .next u) :
    ∀ op, u.producer ≠ .sampled op := by
  cases producerStep_move hstep with
  | idle => exact hs
  | sampled hp => exact absurd hp (hs _)
  | eq1Full | eq1Room | eq2 | eq3 | answered => nofun

/-- An interleaving that ends with both requests answered and neither operation over ends in one of the orders. -/
theorem endsInAnOrder_of_runMicro {order : List Port} (hi : Inv s) (hs : ∀ op, s.producer ≠ .sampled op)
    (hfit : DeqFits (order.count .T) s.consumer) (hrun : runMicro order s = .next t)
    (hp : enqueuing t.producer = false ∧ portIdle .P t = false)
    (hc : dequeuing t.consumer = false ∧ portIdle .T t = false) : EndsInAnOrder s t := by
  induction order generalizing s with
  | nil =>
    cases hrun
    exact .inl ((congrArg deqRest (enqRest_self hp.1)).trans (deqRest_self hc.1))
  | cons p order ih =>
    obtain ⟨u, hu, hiu⟩ := microStep_completes hi p
    rw [runMicro_cons, hu, andThen_next] at hrun
    cases p with
    | P =>
      cases henq : enqueuing s.producer with
      | true =>
        have hfit' : DeqFits (order.count .T) u.consumer := by
          rw [(producerStep_owned hu).consumer_eq]
          simpa using hfit
        exact (ih hiu (producerStep_notSampled hs hu) hfit' hrun).of_producerStep hi henq hu
      | false =>
        have hidle := runMicro_portIdle (portIdle_of_producerStep hs henq hu) hrun
        cases hidle.symm.trans hp.2
    | T =>
      rw [List.count_cons_self] at hfit
      cases hdeq : dequeuing s.consumer with
      | true =>
        have hs' : ∀ op, u.producer ≠ .sampled op := by rwa [(consumerStep_owned hu).producer_eq]
        exact (ih hiu hs' (hfit.of_consumerStep hu) hrun).of_consumerStep hi hiu hdeq hu
      | false =>
        have hidle := runMicro_portIdle (portIdle_of_consumerStep hfit hdeq hu) hrun
        cases hidle.symm.trans hc.2

/-- Settles O26: from EQ1 and DQ1 what is left of the two requests is the whole of both. -/
theorem enqAndDeqAreLinearisable : Obligations.EnqAndDeqAreLinearisable := by
  intro s t r ok order hi hp hc hcount hrun hpt hct
  have hpEnd : enqueuing t.producer = false ∧ portIdle .P t = false := by rw [portIdle, hpt]; exact ⟨rfl, rfl⟩
  have hcEnd : dequeuing t.consumer = false ∧ portIdle .T t = false := by
    rcases hct with h | ⟨e, h⟩ <;> rw [portIdle, h] <;> exact ⟨rfl, rfl⟩
  have hfit : DeqFits (order.count .T) s.consumer := by rw [hc]; exact hcount
  have hends := endsInAnOrder_of_runMicro hi (by rw [hp]; nofun) hfit hrun hpEnd hcEnd
  refine hends.imp (fun h => ?_) fun h => ?_
  · rw [enqRest_eq1 hp] at h
    have hdq1 : (wholeEnq r s).consumer = .dq1 := (enqueue_owned (reportEntry r) s).consumer_eq.trans hc
    rwa [deqRest_dq1 hdq1] at h
  · rw [deqRest_dq1 hc] at h
    obtain ⟨u, hu, hut⟩ := andThen_eq_next.1 h
    have hpu : u.producer = .eq1 r := (deqRest_owned ((deqRest_dq1 hc).trans hu)).producer_eq.trans hp
    rw [hu, andThen_next, ← enqRest_eq1 hpu]
    exact hut

end Sys2Proof.Machine
end

section
/-! The decoders undo the encoder, and the encoder the decoders, in each of the three formats (spec/30_encoding.md R81
to R85, R89, R90; log 13, 14). -/

namespace Sys2Proof

open Machine Laws.EncodedFormat

/-! ### The fields of a request word and of a packet record -/

section
variable (qop : BitVec 2) (tag : BitVec 8) (value : BitVec 14)

@[simp] theorem qreqWord_qop : (qreqWord qop tag value).extractLsb' 24 2 = qop := by
  rw [qreqWord, extractLsb'_append_high _ _ _ _ (by decide)]
  exact extractLsb'_whole qop

@[simp] theorem qreqWord_tag : (qreqWord qop tag value).extractLsb' 16 8 = tag := by
  rw [qreqWord, extractLsb'_append_low _ _ _ _ (by decide), extractLsb'_append_high _ _ _ _ (by decide)]
  exact extractLsb'_whole tag

@[simp] theorem qreqWord_zero : (qreqWord qop tag value).extractLsb' 14 2 = 0#2 := by
  rw [qreqWord, extractLsb'_append_low _ _ _ _ (by decide), extractLsb'_append_low _ _ _ _ (by decide),
    extractLsb'_append_high _ _ _ _ (by decide)]
  exact extractLsb'_whole 0#2

@[simp] theorem qreqWord_entryValue : (qreqWord qop tag value).extractLsb' 0 14 = value := by
  rw [qreqWord, extractLsb'_append_low _ _ _ _ (by decide), extractLsb'_append_low _ _ _ _ (by decide),
    extractLsb'_append_low _ _ _ _ (by decide)]
  exact extractLsb'_whole value

end

section
variable (b0 b1 : Byte) (d1 d2 : BitVec 7)

@[simp] theorem pktWord_byte0 : (pktWord b0 b1 d1 d2).extractLsb' 24 8 = b0 := by
  rw [pktWord, extractLsb'_append_high _ _ _ _ (by decide)]
  exact extractLsb'_whole b0

@[simp] theorem pktWord_byte1 : (pktWord b0 b1 d1 d2).extractLsb' 16 8 = b1 := by
  rw [pktWord, extractLsb'_append_low _ _ _ _ (by decide), extractLsb'_append_high _ _ _ _ (by decide)]
  exact extractLsb'_whole b1

@[simp] theorem pktWord_bit15 : (pktWord b0 b1 d1 d2).extractLsb' 15 1 = 0#1 := by
  rw [pktWord, extractLsb'_append_low _ _ _ _ (by decide), extractLsb'_append_low _ _ _ _ (by decide),
    extractLsb'_append_high _ _ _ _ (by decide)]
  exact extractLsb'_whole 0#1

@[simp] theorem pktWord_data1 : (pktWord b0 b1 d1 d2).extractLsb' 8 7 = d1 := by
  rw [pktWord, extractLsb'_append_low _ _ _ _ (by decide), extractLsb'_append_low _ _ _ _ (by decide),
    extractLsb'_append_low _ _ _ _ (by decide), extractLsb'_append_high _ _ _ _ (by decide)]
  exact extractLsb'_whole d1

@[simp] theorem pktWord_bit7 : (pktWord b0 b1 d1 d2).extractLsb' 7 1 = 0#1 := by
  rw [pktWord, extractLsb'_append_low _ _ _ _ (by decide), extractLsb'_append_low _ _ _ _ (by decide),
    extractLsb'_append_low _ _ _ _ (by decide), extractLsb'_append_low _ _ _ _ (by decide),
    extractLsb'_append_high _ _ _ _ (by decide)]
  exact extractLsb'_whole 0#1

@[simp] theorem pktWord_data2 : (pktWord b0 b1 d1 d2).extractLsb' 0 7 = d2 := by
  rw [pktWord, extractLsb'_append_low _ _ _ _ (by decide), extractLsb'_append_low _ _ _ _ (by decide),
    extractLsb'_append_low _ _ _ _ (by decide), extractLsb'_append_low _ _ _ _ (by decide),
    extractLsb'_append_low _ _ _ _ (by decide)]
  exact extractLsb'_whole d2

end

/-! ### Decode after encode -/

/-- An instruction's word is read in the instruction's own format (R80, R84; log 14). -/
theorem wordFormat_encode (i : Instr) : wordFormat (encode i) = formatOf i := by
  cases i with
  | sampleCc res ch raw => exact Laws.EncodedFormat.sampleCc res ch raw
  | samplePb res raw => exact Laws.EncodedFormat.samplePb res raw
  | frameNotify => exact Laws.EncodedFormat.frameNotify
  | enable => exact Laws.EncodedFormat.enable
  | disable => exact Laws.EncodedFormat.disable
  | enq tag value => exact Laws.EncodedFormat.enq tag value
  | deq => exact Laws.EncodedFormat.deq
  | pktCc c v => exact Laws.EncodedFormat.pktCc c v
  | pktPb l m => exact Laws.EncodedFormat.pktPb l m

theorem decodeCmd_encode {p : Port} {i : Instr} (h : formatOf i = .cmd p) : decodeCmd p (encode i) = .ok i := by
  cases i with
  | sampleCc | samplePb => cases h; simp [decodeCmd, decodeCmdFields, encode, opPort]
  | frameNotify | enable | disable => cases h; rfl
  | enq | deq | pktCc | pktPb => cases h

/-- A request's 26 bits, out of its 32-bit number. -/
theorem setWidth_extractLsb' (q : QReqWord) : (q.setWidth 32).extractLsb' 0 26 = q := by
  apply BitVec.eq_of_toNat_eq
  rw [extractLsb'_value, BitVec.toNat_setWidth]
  omega

theorem decodeQreq_encode {i : Instr} (h : formatOf i = .qreq) :
    decodeQreq ((encode i).extractLsb' 0 26) = .ok i := by
  cases i with
  | enq tag value => simp [decodeQreq, encode, setWidth_extractLsb']
  | deq => rfl
  | sampleCc | samplePb | frameNotify | enable | disable | pktCc | pktPb => cases h

theorem decodePkt_encode {i : Instr} (h : formatOf i = .pkt) : decodePkt (encode i) = .ok i := by
  cases i with
  | pktCc c v => simp [decodePkt, encode]
  | pktPb l m => simp [decodePkt, encode, Config.cinCc, Config.cinPb]
  | sampleCc | samplePb | frameNotify | enable | disable | enq | deq => cases h

theorem decode_encode (i : Instr) : decode (encode i) = .ok i := by
  unfold decode
  rw [wordFormat_encode]
  cases h : formatOf i with
  | cmd p => exact decodeCmd_encode h
  | qreq => exact decodeQreq_encode h
  | pkt => exact decodePkt_encode h

/-- Settles O1: the word is read in its instruction's format, and there each field comes back as it was put in. -/
theorem decodingAnEncodingGivesTheInstruction : Obligations.DecodingAnEncodingGivesTheInstruction :=
  ⟨fun _ _ _ => decode_encode _, fun _ _ => decode_encode _, decode_encode _, decode_encode _, decode_encode _,
    fun _ _ => decode_encode _, decode_encode _, fun _ _ => decode_encode _, fun _ _ => decode_encode _⟩

/-! ### Encode after decode -/

/-- A request word whose reserved bits are zero is its three fields. -/
theorem qreqWord_of_zero {q : QReqWord} (hz : q.extractLsb' 14 2 = 0#2) :
    qreqWord (q.extractLsb' 24 2) (q.extractLsb' 16 8) (q.extractLsb' 0 14) = q := by
  have hq := q.isLt
  have hz' := congrArg BitVec.toNat hz
  simp only [extractLsb'_value, BitVec.toNat_ofNat] at hz'
  apply BitVec.eq_of_toNat_eq
  simp only [qreqWord_value, extractLsb'_value]
  omega

/-- A request word with nothing below its code is the code (R85). -/
theorem qreqWord_of_empty {q : QReqWord} (hz : q.extractLsb' 0 24 = 0#24) :
    qreqWord (q.extractLsb' 24 2) 0#8 0#14 = q := by
  have hq := q.isLt
  have hz' := congrArg BitVec.toNat hz
  simp only [extractLsb'_value, BitVec.toNat_ofNat] at hz'
  apply BitVec.eq_of_toNat_eq
  simp only [qreqWord_value, extractLsb'_value, BitVec.toNat_ofNat]
  omega

/-- A record whose data bytes are below 128 is its four bytes (R88). -/
theorem pktWord_of_zero {w : PktWord} (h15 : w.extractLsb' 15 1 = 0#1) (h7 : w.extractLsb' 7 1 = 0#1) :
    pktWord (w.extractLsb' 24 8) (w.extractLsb' 16 8) (w.extractLsb' 8 7) (w.extractLsb' 0 7) = w := by
  have hw := w.isLt
  have h15' := congrArg BitVec.toNat h15
  have h7' := congrArg BitVec.toNat h7
  simp only [extractLsb'_value, BitVec.toNat_ofNat] at h15' h7'
  apply BitVec.eq_of_toNat_eq
  simp only [pktWord_value, extractLsb'_value]
  omega

theorem encode_of_decodeQreq {q : QReqWord} {i : Instr} (h : decodeQreq q = .ok i) : encode i = q.setWidth 32 := by
  unfold decodeQreq at h
  split at h
  · cases h
  split at h
  case isTrue hop =>
    split at h
    · cases h
    · rename_i hz
      cases h
      rw [encode, ← hop, qreqWord_of_zero (not_not.1 hz)]
  split at h
  case isTrue hop =>
    split at h
    · cases h
    · rename_i hz
      cases h
      rw [encode, ← hop, qreqWord_of_empty (not_not.1 hz)]
  cases h

theorem encode_of_decodePkt {w : PktWord} {i : Instr} (h : decodePkt w = .ok i) : encode i = w := by
  unfold decodePkt at h
  split at h
  · cases h
  rename_i hz
  obtain ⟨h15, h7⟩ := not_or.1 hz
  have hw := pktWord_of_zero (not_not.1 h15) (not_not.1 h7)
  split at h
  case isTrue hb =>
    cases h
    rw [encode, ← hb.1, ← hb.2, hw]
  split at h
  case isTrue hb =>
    cases h
    rw [encode, ← hb.1, ← hb.2, hw]
  cases h

/-- Settles O2: a word that decodes has zeros in its reserved bits, so it is its fields, and they are the encoding's. -/
theorem everyDecodedWordIsItsInstructionsEncoding : Obligations.EveryDecodedWordIsItsInstructionsEncoding :=
  ⟨fun _ _ _ h => (decodeCmd_eq_ok h).imp id And.left, fun _ _ h => encode_of_decodeQreq h,
    fun _ _ h => encode_of_decodePkt h⟩

/-- Settles O4: the decoders are run on the eleven words. -/
theorem writtenWordsDecode : Obligations.WrittenWordsDecode :=
  ⟨rfl, rfl, rfl, rfl, rfl, rfl, rfl, rfl, rfl, rfl, rfl⟩

end Sys2Proof
end

section
/-! The word of any instruction, placed to be run next (spec/30_encoding.md R81, R85, R89, R90; log 2). -/

namespace Sys2Proof.Machine

open Laws.EncodedFormat

variable {s : State}

theorem portIdle_of_portsIdle (h : portsIdle s = true) (p : Port) : portIdle p s = true := by
  obtain ⟨hp, hc⟩ := Bool.and_eq_true_iff.1 h
  cases p with
  | P => exact hp
  | T => exact hc

/-- Whatever format its word has, an instruction delivered while both ports are idle is run. -/
theorem deliver_wordEvent_encode (i : Instr) (hs : portsIdle s = true) :
    deliver (wordEvent (encode i)) s = exec i s := by
  have hp := portIdle_of_portsIdle hs
  unfold wordEvent
  rw [wordFormat_encode]
  cases h : formatOf i with
  | cmd p => exact deliverCommand_run (decodeCmd_encode h) (hp p) fun _ => hs
  | qreq => exact deliverRequest_run (decodeQreq_encode h) (hp _)
  | pkt => exact deliverRecord_run (decodePkt_encode h) (hp .T)

/-- Settles O6: the placed event is the head of the schedule and finds both ports idle. -/
theorem placedWordRunsNext : Obligations.PlacedWordRunsNext := by
  intro s i
  have hword : BitVec.ofNat 32 ((encode i).toNat % 2 ^ 32) = encode i := by
    rw [Nat.mod_eq_of_lt (encode i).isLt, BitVec.ofNat_toNat, BitVec.setWidth_eq]
  rw [step_of_cons (withFetchWord_events ..), hword]
  exact deliver_wordEvent_encode i rfl

end Sys2Proof.Machine
end

section
/-! Which command words are illegal, and what one does (spec/30_encoding.md R93, 60_exceptions.md R207). -/

namespace Sys2Proof.Machine

open Sys2Proof.Claims Laws.EncodedFormat

variable {p : Port} {w : CmdWord}

/-! ### The numbers of R93 are the fields of the word -/

section
variable (op : BitVec 4) (res : BitVec 2) (ch : BitVec 8) (raw : RawSample)

@[simp] theorem opOf_cmdWord : opOf (cmdWord op res ch raw) = op.toNat := by
  have := ch.isLt; have := res.isLt; have := raw.toNat_lt
  simp only [opOf, cmdWord_value]
  omega

@[simp] theorem resOf_cmdWord : resOf (cmdWord op res ch raw) = res.toNat := by
  have := ch.isLt; have := res.isLt; have := raw.toNat_lt
  simp only [resOf, cmdWord_value]
  omega

@[simp] theorem zeroAOf_cmdWord : zeroAOf (cmdWord op res ch raw) = 0 := by
  have := ch.isLt; have := raw.toNat_lt
  simp only [zeroAOf, cmdWord_value]
  omega

@[simp] theorem chOf_cmdWord : chOf (cmdWord op res ch raw) = ch.toNat := by
  have := ch.isLt; have := raw.toNat_lt
  simp only [chOf, cmdWord_value]
  omega

@[simp] theorem zeroBOf_cmdWord : zeroBOf (cmdWord op res ch raw) = 0 := by
  have := raw.toNat_lt
  simp only [zeroBOf, cmdWord_value]
  omega

@[simp] theorem rawOf_cmdWord : rawOf (cmdWord op res ch raw) = raw.toNat := by
  have := raw.toNat_lt
  simp only [rawOf, cmdWord_value]
  omega

end

/-- A word with nothing in its reserved bits is put together from four fields (R81). -/
theorem exists_cmdWord (ha : zeroAOf w = 0) (hb : zeroBOf w = 0) :
    ∃ op res ch raw, cmdWord op res ch raw = w :=
  ⟨_, _, _, _, cmdWord_of_zero (BitVec.eq_of_toNat_eq ((extractLsb'_value w 24 2).trans ha))
    (BitVec.eq_of_toNat_eq ((extractLsb'_value w 12 4).trans hb))⟩

/-- The reserved code is the one that is no result's (R83). -/
theorem exists_code_iff (res : BitVec 2) : (∃ r : SamplerResult, r.code = res) ↔ res.toNat ≠ 3 := by
  constructor
  · rintro ⟨r, rfl⟩
    cases r <;> decide
  · intro h
    have := res.isLt
    obtain h | h | h : res.toNat = 0 ∨ res.toNat = 1 ∨ res.toNat = 2 := by omega
    · exact ⟨.sample, (BitVec.eq_of_toNat_eq h).symm⟩
    · exact ⟨.unavailable, (BitVec.eq_of_toNat_eq h).symm⟩
    · exact ⟨.invalidChannel, (BitVec.eq_of_toNat_eq h).symm⟩

/-! ### The legal words are the encodings -/

/-- None of R93's conditions holds of an encoding at its operation's port. -/
theorem not_illegalWord_encode {i : Instr} (h : formatOf i = .cmd p) : ¬ illegalWord p (encode i) := by
  cases i with
  | sampleCc res | samplePb res =>
    have hres := (exists_code_iff res.code).1 ⟨res, rfl⟩
    cases h
    simp [illegalWord, encode, hres]
  | frameNotify | enable | disable => cases h; decide
  | enq | deq | pktCc | pktPb => cases h

/-- A word of which none of R93's conditions holds encodes an operation of the port. -/
theorem exists_encode_of_legal (h : ¬ illegalWord p w) : ∃ i, encode i = w ∧ formatOf i = .cmd p := by
  simp only [illegalWord, not_or] at h
  obtain ⟨hop, hP, hT, ha, hb, hres, hch, hrest⟩ := h
  obtain ⟨op, res, ch, raw, rfl⟩ := exists_cmdWord (not_not.1 ha) (not_not.1 hb)
  simp only [opOf_cmdWord, resOf_cmdWord, chOf_cmdWord, rawOf_cmdWord] at hop hP hT hres hch hrest
  cases p with
  | P =>
    obtain ⟨r, rfl⟩ := (exists_code_iff res).2 hres
    have hP := not_and.1 hP rfl
    obtain rfl | rfl : op = 1#4 ∨ op = 2#4 := by bv_omega
    · exact ⟨.sampleCc r ch raw, rfl, rfl⟩
    · have hch := not_not.1 (not_and.1 hch (.inl rfl))
      obtain rfl : ch = 0#8 := BitVec.eq_of_toNat_eq hch
      exact ⟨.samplePb r raw, rfl, rfl⟩
  | T =>
    have hT := not_and.1 hT rfl
    have hop : op = 8#4 ∨ op = 12#4 ∨ op = 13#4 := by bv_omega
    obtain ⟨rfl, rfl⟩ : res = 0#2 ∧ ch = 0#8 := by bv_omega
    have hraw : raw.toNat = 0 := by bv_omega
    obtain rfl : raw = 0#Config.rawBits := BitVec.eq_of_toNat_eq hraw
    obtain rfl | rfl | rfl := hop
    · exact ⟨.frameNotify, rfl, rfl⟩
    · exact ⟨.enable, rfl, rfl⟩
    · exact ⟨.disable, rfl, rfl⟩

/-- The format of a command is its port's (R82). -/
theorem formatOf_of_isCommand {i : Instr} (h : i.isCommand = true) : formatOf i = .cmd (operationPort i) := by
  cases i with
  | sampleCc | samplePb | frameNotify | enable | disable => rfl
  | enq | deq | pktCc | pktPb => cases h

/-- The decoder rejects the words of R93's list and no other. -/
theorem decodeCmd_error_iff : (∃ r, decodeCmd p w = .error r) ↔ illegalWord p w := by
  constructor
  · rintro ⟨r, hr⟩
    by_contra hl
    obtain ⟨i, rfl, hi⟩ := exists_encode_of_legal hl
    cases (decodeCmd_encode hi).symm.trans hr
  · intro hill
    cases hd : decodeCmd p w with
    | error r => exact ⟨r, rfl⟩
    | ok i =>
      obtain ⟨rfl, rfl, hcmd⟩ := decodeCmd_eq_ok hd
      exact absurd hill (not_illegalWord_encode (formatOf_of_isCommand hcmd))

/-! ### What an illegal word does -/

/-- A rejected word writes its idle port's status and no more (60_exceptions.md R207). -/
theorem deliverCommand_illegal {s : State} {run : Instr → State → Result} (hp : portIdle p s = true)
    (hill : illegalWord p w) : deliverCommand p w run s = .next (setStatus p .illegalOp s) := by
  obtain ⟨r, hr⟩ := decodeCmd_error_iff.2 hill
  rw [deliverCommand, if_neg (by simp [hp]), hr]

/-- A channel no instance has is reported as such (60_exceptions.md R202). -/
theorem execSampleCc_noChannel {s : State} {ch : BitVec 8} (hch : s.channels ≤ ch.toNat) (res : SamplerResult)
    (raw : RawSample) : execSampleCc res ch raw s = .next { s with pstat := .invalidChannel } := by
  rw [execSampleCc, quantizerFront, if_pos (.inl hch)]
  rfl

/-- Settles O3: the words that are no encoding are the illegal ones, and their delivery is a status report. -/
theorem illegalCommandWordsSetOnlyTheStatus : Obligations.IllegalCommandWordsSetOnlyTheStatus := by
  refine ⟨fun p w => decodeCmd_error_iff, fun s p w rest hs hp hill => ?_, fun s res ch raw hch =>
    ⟨not_illegalWord_encode rfl, execSampleCc_noChannel hch res raw⟩⟩
  have hstep : step s = .next (setStatus p .illegalOp { s with events := rest }) := by
    rw [← portIdle_withEvents p rest] at hp
    rcases hs with hs | hs <;> rw [step_of_cons hs] <;> exact deliverCommand_illegal hp hill
  rw [hstep]
  cases p <;> rfl

end Sys2Proof.Machine
end

section
/-! The bytes of the two packets, of an entry and in the transmit buffer (spec/30_encoding.md R89, R90,
43_packetizer.md R172 to R174, 20_memory.md R55). -/

namespace Sys2Proof.Machine

/-! ### The packet of an entry -/

/-- The low seven bits of a 14-bit value, as a byte. -/
theorem lowBits_byte (v : BitVec 14) :
    ((v &&& 0x7F#14).setWidth 7).setWidth 8 = BitVec.ofNat 8 (v.toNat % 128) := by
  apply BitVec.eq_of_toNat_eq
  have hmask : v.toNat &&& 127 = v.toNat % 128 := Nat.and_two_pow_sub_one_eq_mod _ 7
  simp only [BitVec.toNat_setWidth, BitVec.toNat_and, BitVec.toNat_ofNat, Nat.reducePow, Nat.reduceMod, hmask]
  omega

/-- The high seven bits of a 14-bit value, as a byte. -/
theorem highBits_byte (v : BitVec 14) :
    (((v >>> 7) &&& 0x7F#14).setWidth 7).setWidth 8 = BitVec.ofNat 8 (v.toNat / 128) := by
  have hshift : (v >>> 7).toNat = v.toNat / 128 := by simp [Nat.shiftRight_eq_div_pow]
  have hlt : v.toNat / 128 < 128 := by omega
  rw [lowBits_byte, hshift, Nat.mod_eq_of_lt hlt]

theorem entryBytes_pitchBend (n : Nat) {e : Entry} (ht : e.tag = Config.tagPb) :
    entryBytes n e =
      [0x0E#8, 0xE0#8, BitVec.ofNat 8 (e.value.toNat % 128), BitVec.ofNat 8 (e.value.toNat / 128)] := by
  rw [← lowBits_byte, ← highBits_byte, entryBytes, entryPacket, if_pos ht]
  rfl

/-- A channel's controller number fits its seven bits because `N` is at most 117 (00_scope.md R7). -/
theorem entryBytes_control {n : Nat} {e : Entry} (hn : n ≤ 117) (ht : e.tag.toNat < n) :
    entryBytes n e =
      [0x0B#8, 0xB0#8, BitVec.ofNat 8 (e.tag.toNat + 11), BitVec.ofNat 8 (e.value.toNat % 128)] := by
  have htag : e.tag ≠ Config.tagPb := by
    intro h
    rw [h] at ht
    exact absurd (ht.trans_le hn) (by decide)
  have hctl : (BitVec.ofNat 7 (e.tag.toNat + Config.ccBase)).setWidth 8 = BitVec.ofNat 8 (e.tag.toNat + 11) := by
    apply BitVec.eq_of_toNat_eq
    simp only [Config.ccBase, BitVec.toNat_setWidth, BitVec.toNat_ofNat]
    omega
  rw [← lowBits_byte, ← hctl, entryBytes, entryPacket, if_neg htag, if_pos ht]
  rfl

/-- Settles O37: the tag selects the format, and the value's halves are its data bytes. -/
theorem entriesBecomeTheTwoPacketFormats : Obligations.EntriesBecomeTheTwoPacketFormats :=
  fun n _ hn => ⟨entryBytes_pitchBend n, fun ht => ⟨entryBytes_control hn ht, by omega, by omega⟩⟩

/-! ### A packet record at the transmit buffer -/

section
variable {s : State}

/-- With room and an idle endpoint a record is the packet write (log 12). -/
theorem recordPacket_eq (p : Packet) (hb : s.epBusy = false) (hr : s.txn + 4 ≤ 64) :
    recordPacket p s = .next (appendPacket p s) := by
  rcases recordPacket_cases p s with ⟨hb', -⟩ | ⟨-, -, h⟩ | ⟨-, hr', -⟩
  · cases hb.symm.trans hb'
  · exact h
  · omega

theorem txRead_appendPacket_byte (p : Packet) {k : Nat} (hk : k < 4) :
    txRead (appendPacket p s) (s.txn + k) = (packetBytes p)[k]? := by
  rw [txRead_appendPacket, if_pos ⟨by omega, by omega⟩, Nat.add_sub_cancel_left]

theorem txRead_appendPacket_other (p : Packet) {off : Nat} (h : off < s.txn ∨ s.txn + 4 ≤ off) :
    txRead (appendPacket p s) off = txRead s off := by
  rw [txRead_appendPacket, if_neg (by omega)]

/-- A packet record of bytes `b0` to `b3`: where they stand, and that nothing else changed. -/
theorem recordPacket_appends {p : Packet} {b0 b1 b2 b3 : Byte} (hb : s.epBusy = false) (hr : s.txn + 4 ≤ 64)
    (hp : packetBytes p = [b0, b1, b2, b3]) :
    ∃ t, recordPacket p s = .next t ∧ t = { s with tx := t.tx, txn := s.txn + 4 } ∧
      txRead t s.txn = some b0 ∧ txRead t (s.txn + 1) = some b1 ∧ txRead t (s.txn + 2) = some b2 ∧
      txRead t (s.txn + 3) = some b3 ∧
      ∀ off, off < s.txn ∨ s.txn + 4 ≤ off → txRead t off = txRead s off := by
  have hbyte {k : Nat} (hk : k < 4) : txRead (appendPacket p s) (s.txn + k) = [b0, b1, b2, b3][k]? :=
    hp ▸ txRead_appendPacket_byte p hk
  exact ⟨_, recordPacket_eq p hb hr, rfl, hbyte (k := 0) (by decide), hbyte (k := 1) (by decide),
    hbyte (k := 2) (by decide), hbyte (k := 3) (by decide), fun _ => txRead_appendPacket_other p⟩

end

/-! ### The bytes of a record, as numbers -/

theorem packetBytes_control (c v : BitVec 7) :
    packetBytes (.control c v) = [0x0B#8, 0xB0#8, BitVec.ofNat 8 c.toNat, BitVec.ofNat 8 v.toNat] := by
  rw [BitVec.ofNat_toNat, BitVec.ofNat_toNat]
  rfl

theorem packetBytes_pitchBend (l m : BitVec 7) :
    packetBytes (.pitchBend l m) = [0x0E#8, 0xE0#8, BitVec.ofNat 8 l.toNat, BitVec.ofNat 8 m.toNat] := by
  rw [BitVec.ofNat_toNat, BitVec.ofNat_toNat]
  rfl

/-- Settles O38: a record that meets its conditions is one packet write at `txn`. -/
theorem packetRecordsAppendTheirBytes : Obligations.PacketRecordsAppendTheirBytes :=
  fun _ hb hr => ⟨fun c v => recordPacket_appends hb hr (packetBytes_control c v),
    fun l m => recordPacket_appends hb hr (packetBytes_pitchBend l m)⟩

end Sys2Proof.Machine
end

section
/-! One SAMPLE_CC of a sample on a channel that exists: the window, the priming update, the report
(spec/40_quantizer.md R111 to R120). -/

namespace Sys2Proof.Machine

open Sys2Proof.Claims

/-! ### The window and the candidate -/

theorem candidate_eq_binOf (raw : RawSample) : candidate raw = binOf raw := by
  rw [binOf, ← candidate_toNat, BitVec.ofNat_toNat, BitVec.setWidth_eq]

theorem binOf_toNat (raw : RawSample) : (binOf raw).toNat = raw.toNat / 32 := by
  rw [← candidate_eq_binOf, candidate_toNat]

/-- A sample lies inside the window of the value it would itself be reported as (R119). -/
theorem inWindow_binOf (raw : RawSample) : InWindow (binOf raw) raw := by
  rw [InWindow, binOf_toNat]
  omega

/-- A change's candidate is not the value whose window the sample left (R118). -/
theorem binOf_ne {v : BitVec 7} {raw : RawSample} (hout : ¬ InWindow v raw) : binOf raw ≠ v := by
  rintro rfl
  exact hout (inWindow_binOf raw)

/-- Settles O13: the window, the candidate and the change test are linear bounds on the sample's number. -/
theorem reportThresholdsAreAsymmetric : Obligations.ReportThresholdsAreAsymmetric := by
  intro v raw
  have hraw := RawSample.toNat_lt raw
  rw [change_iff, windowLo_eq, windowHi_eq, candidate_toNat]
  exact ⟨rfl, by omega, rfl, by omega, by omega⟩

/-! ### What the operation does -/

section
variable {s t : State} {ch : BitVec 8} {raw : RawSample} (hch : ch.toNat < s.channels)
include hch

theorem lrvRead_of_set (v : BitVec 7) (ht : t.lrv = s.lrv.set ch.toNat v) : lrvRead t ch.toNat = v := by
  rw [lrvRead, ht, List.getD_eq_getElem _ _ (by simpa using hch), List.getElem_set_self]

/-- Line 3 of R114, in either mode. -/
theorem execSampleCc_inWindow (hin : InWindow (lrvRead s ch.toNat) raw) :
    execSampleCc .sample ch raw s = .next { s with pstat := .noEvent } := by
  have hc : ¬ Change (lrvRead s ch.toNat) raw := by rwa [change_iff_not_inWindow, not_not]
  simp only [execSampleCc, quantizerFront, Nat.not_le.2 hch, hc, reduceCtorEq, or_self, not_false_eq_true,
    if_false, if_true, finishSample_ended, setStatus]

/-- Line 4 of R114: priming (R116). -/
theorem execSampleCc_primes (hm : s.mode = .disabled) (hout : ¬ InWindow (lrvRead s ch.toNat) raw) :
    execSampleCc .sample ch raw s =
      .next { s with lrv := s.lrv.set ch.toNat (binOf raw), pstat := .noEvent } := by
  rw [← change_iff_not_inWindow] at hout
  simp [execSampleCc, quantizerFront, Nat.not_le.2 hch, hout, hm, setStatus, lrvWrite, candidate_eq_binOf]

/-- Line 5 of R114: a change while Enabled asks for one ENQ (R115). -/
theorem quantizerFront_reports (hm : s.mode = .enabled) (hout : ¬ InWindow (lrvRead s ch.toNat) raw) :
    quantizerFront .sample ch raw s = (s, some (.control ch (binOf raw))) := by
  rw [← change_iff_not_inWindow] at hout
  simp [quantizerFront, Nat.not_le.2 hch, hout, hm, candidate_eq_binOf]

/-- Lines 5 and 6 of R114: a change while Enabled, and ENQ had room (R115). -/
theorem execSampleCc_enqueues (hm : s.mode = .enabled) (hout : ¬ InWindow (lrvRead s ch.toNat) raw)
    (hq : ¬ QueueFull s) :
    execSampleCc .sample ch raw s = .next { s with
      lrv := s.lrv.set ch.toNat (binOf raw)
      slots := Memory.write s.slots (advance s.capacity s.wr) (controlEntry ch raw)
      wr := advance s.capacity s.wr
      pstat := .enqueued
      enqAnswer := some (answerWord true 0#24) } := by
  rw [execSampleCc, quantizerFront_reports hch hm hout, finishSample_control hq]
  rfl

/-- Lines 5 and 6 of R114: a change while Enabled, and the queue was full (R115). -/
theorem execSampleCc_drops (hm : s.mode = .enabled) (hout : ¬ InWindow (lrvRead s ch.toNat) raw)
    (hq : QueueFull s) :
    execSampleCc .sample ch raw s =
      .next { s with pstat := .queueFull, enqAnswer := some (answerWord false 0#24) } := by
  rw [execSampleCc, quantizerFront_reports hch hm hout, finishSample_full hq]

end

/-- Settles O8: the change test fails, so line 3 ends the operation. -/
theorem samplesInsideTheWindowReportNothing : Obligations.SamplesInsideTheWindowReportNothing :=
  fun _ _ _ hch hin => execSampleCc_inWindow hch hin

/-- Settles O9: line 4 or line 3 ends the operation, before any ENQ. -/
theorem primingUpdatesWithoutEnqueueing : Obligations.PrimingUpdatesWithoutEnqueueing :=
  fun _ _ _ hch hm => ⟨execSampleCc_primes hch hm, execSampleCc_inWindow hch⟩

/-- Settles O10: the operation asks for one ENQ, whose answer decides. -/
theorem changesWhileEnabledAreEnqueued : Obligations.ChangesWhileEnabledAreEnqueued :=
  fun _ _ _ hch hm hout =>
    ⟨fun hq => ⟨_, execSampleCc_enqueues hch hm hout hq⟩, fun hq => ⟨_, execSampleCc_drops hch hm hout hq⟩⟩

/-! ### The operation read backwards -/

/-- The ways through SAMPLE_CC, by the state they lead to (R114). -/
inductive SampleCcMove (res : SamplerResult) (ch : BitVec 8) (raw : RawSample) (s : State) : State → Prop where
  | invalid (hbad : s.channels ≤ ch.toNat ∨ res = .invalidChannel) :
    SampleCcMove res ch raw s { s with pstat := .invalidChannel }
  | unavailable (hch : ch.toNat < s.channels) (hres : res = .unavailable) :
    SampleCcMove res ch raw s { s with pstat := .sampleTimeout }
  | inWindow (hch : ch.toNat < s.channels) (hres : res = .sample)
      (hin : InWindow (lrvRead s ch.toNat) raw) :
    SampleCcMove res ch raw s { s with pstat := .noEvent }
  | primed (hch : ch.toNat < s.channels) (hres : res = .sample) (hm : s.mode = .disabled)
      (hout : ¬ InWindow (lrvRead s ch.toNat) raw) :
    SampleCcMove res ch raw s { s with lrv := s.lrv.set ch.toNat (binOf raw), pstat := .noEvent }
  | enqueued (hch : ch.toNat < s.channels) (hres : res = .sample) (hm : s.mode = .enabled)
      (hout : ¬ InWindow (lrvRead s ch.toNat) raw) (hq : ¬ QueueFull s) :
    SampleCcMove res ch raw s { s with
      lrv := s.lrv.set ch.toNat (binOf raw)
      slots := Memory.write s.slots (advance s.capacity s.wr) (controlEntry ch raw)
      wr := advance s.capacity s.wr
      pstat := .enqueued
      enqAnswer := some (answerWord true 0#24) }
  | dropped (hch : ch.toNat < s.channels) (hres : res = .sample) (hm : s.mode = .enabled)
      (hout : ¬ InWindow (lrvRead s ch.toNat) raw) (hq : QueueFull s) :
    SampleCcMove res ch raw s { s with pstat := .queueFull, enqAnswer := some (answerWord false 0#24) }

variable {s t : State} {res : SamplerResult} {ch : BitVec 8} {raw : RawSample}

theorem execSampleCc_move (h : execSampleCc res ch raw s = .next t) : SampleCcMove res ch raw s t := by
  by_cases hch : ch.toNat < s.channels
  case neg =>
    rw [execSampleCc_noChannel (not_lt.1 hch)] at h
    cases h
    exact .invalid (.inl (not_lt.1 hch))
  cases res with
  | invalidChannel =>
    rw [execSampleCc, quantizerFront, if_pos (.inr rfl)] at h
    cases h
    exact .invalid (.inr rfl)
  | unavailable =>
    rw [execSampleCc, quantizerFront, if_neg (by simpa using hch), if_pos rfl] at h
    cases h
    exact .unavailable hch rfl
  | sample =>
    by_cases hin : InWindow (lrvRead s ch.toNat) raw
    · rw [execSampleCc_inWindow hch hin] at h; cases h; exact .inWindow hch rfl hin
    · cases hm : s.mode with
      | disabled => rw [execSampleCc_primes hch hm hin] at h; cases h; exact .primed hch rfl hm hin
      | enabled =>
        by_cases hq : QueueFull s
        · rw [execSampleCc_drops hch hm hin hq] at h; cases h; exact .dropped hch rfl hm hin hq
        · rw [execSampleCc_enqueues hch hm hin hq] at h; cases h; exact .enqueued hch rfl hm hin hq

/-- A report that was accepted: its entry is the newest, and its value is the new cached one, not the old (R115,
R118). -/
theorem enqueued_report (hch : ch.toNat < s.channels) (h : execSampleCc .sample ch raw s = .next t)
    (ht : t.pstat = .enqueued) :
    lrvRead t ch.toNat = binOf raw ∧ binOf raw ≠ lrvRead s ch.toNat ∧
      slotRead t t.wr = some (controlEntry ch raw) := by
  cases execSampleCc_move h with
  | enqueued _ _ _ hout _ =>
    exact ⟨lrvRead_of_set hch _ rfl, binOf_ne hout, Memory.read_write_same _ _ _⟩
  | invalid | unavailable | inWindow | primed | dropped => cases ht

theorem controlEntry_value_toNat (ch : BitVec 8) (raw : RawSample) :
    (controlEntry ch raw).value.toNat = (binOf raw).toNat :=
  BitVec.toNat_setWidth_of_le (by decide)

/-- Settles O11: the sample lies in its own bin's window, so a bin it reports is another than the cached one. -/
theorem reportedValueDiffersFromTheCachedOne : Obligations.ReportedValueDiffersFromTheCachedOne := by
  refine ⟨fun v raw hout => candidate_eq_binOf raw ▸ binOf_ne hout, fun s t ch raw hch h ht => ?_,
    fun s t ch raw hch hm hout h => ?_⟩
  · obtain ⟨hnew, hne, hslot⟩ := enqueued_report hch h ht
    rw [hnew]
    refine ⟨hne, controlEntry ch raw, hslot, rfl, ?_, controlEntry_value_toNat ch raw⟩
    rw [controlEntry_value_toNat]
    exact fun he => hne (BitVec.eq_of_toNat_eq he)
  · cases (execSampleCc_primes hch hm hout).symm.trans h
    rw [lrvRead_of_set hch (binOf raw) rfl]
    exact binOf_ne hout

/-- A state whose cached value is the sample's own bin sees no change (R119). -/
theorem execSampleCc_again (hch : ch.toNat < s.channels) (ht : t.lrv = s.lrv.set ch.toNat (binOf raw)) :
    execSampleCc .sample ch raw t = .next { t with pstat := .noEvent } := by
  refine execSampleCc_inWindow (by simpa [State.channels, ht] using hch) ?_
  rw [lrvRead_of_set hch _ ht]
  exact inWindow_binOf raw

/-- Settles O12: an acknowledged sample lies in the window of the value cached after it, a dropped one meets the state
it met before. -/
theorem acknowledgedSamplesDoNotRetrigger : Obligations.AcknowledgedSamplesDoNotRetrigger := by
  intro s t ch raw hch h
  cases execSampleCc_move h with
  | invalid hbad => exact absurd hbad (by simpa using hch)
  | unavailable _ hres => cases hres
  | inWindow _ _ hin => exact ⟨fun _ => execSampleCc_inWindow hch hin, nofun⟩
  | primed => exact ⟨fun _ => execSampleCc_again hch rfl, nofun⟩
  | enqueued => exact ⟨fun _ => execSampleCc_again hch rfl, nofun⟩
  | dropped _ _ hm hout hq => exact ⟨fun hne => absurd rfl hne, fun _ => ⟨rfl, execSampleCc_drops hch hm hout hq⟩⟩

end Sys2Proof.Machine
end

section
/-! What the SAMPLE operations leave unchanged (spec/40_quantizer.md R110, R114, 41_pitchbend.md R136). -/

namespace Sys2Proof.Machine

open Sys2Proof.Claims

/-- The ways through SAMPLE_PB, by the state they lead to (41_pitchbend.md R136). -/
inductive SamplePbMove (res : SamplerResult) (raw : RawSample) (s : State) : State → Prop where
  | invalid (hres : res = .invalidChannel) : SamplePbMove res raw s { s with pstat := .invalidChannel }
  | unavailable (hres : res = .unavailable) : SamplePbMove res raw s { s with pstat := .sampleTimeout }
  | quiet (hres : res = .sample) (hold : s.mode = .disabled ∨ s.ls = some (bendOf s.sm raw)) :
    SamplePbMove res raw s { s with sm := smooth s.sm raw, pstat := .noEvent }
  | enqueued (hres : res = .sample) (hm : s.mode = .enabled) (hnew : s.ls ≠ some (bendOf s.sm raw))
      (hq : ¬ QueueFull s) :
    SamplePbMove res raw s { s with
      sm := smooth s.sm raw
      ls := some (bendOf s.sm raw)
      slots := Memory.write s.slots (advance s.capacity s.wr) (bendEntry (bendOf s.sm raw))
      wr := advance s.capacity s.wr
      pstat := .enqueued
      enqAnswer := some (answerWord true 0#24) }
  | dropped (hres : res = .sample) (hm : s.mode = .enabled) (hnew : s.ls ≠ some (bendOf s.sm raw))
      (hq : QueueFull s) :
    SamplePbMove res raw s { s with
      sm := smooth s.sm raw
      pstat := .queueFull
      enqAnswer := some (answerWord false 0#24) }

variable {s t : State} {res : SamplerResult} {raw : RawSample}

theorem execSamplePb_move (h : execSamplePb res raw s = .next t) : SamplePbMove res raw s t := by
  rcases pitchBendFront_cases res raw s with ⟨hres, hf⟩ | ⟨hres, hf⟩ | ⟨hres, hm, hnew, hf⟩ | ⟨hres, hold, hf⟩ <;>
    rw [execSamplePb, hf] at h
  · cases h; exact .invalid hres
  · cases h; exact .unavailable hres
  · rw [← bendOf_eq] at h hnew
    by_cases hq : QueueFull { s with sm := smooth s.sm raw }
    · rw [finishSample_full hq] at h; cases h; exact .dropped hres hm hnew.symm hq
    · rw [finishSample_pitchBend hq] at h; cases h; exact .enqueued hres hm hnew.symm hq
  · rw [← bendOf_eq] at hold
    cases h
    exact .quiet hres (hold.imp_right Eq.symm)

/-- Settles O21: SAMPLE_CC writes the register of its own channel only, and each operation stores a slot only for a
report. -/
theorem frameOfSampleOperations : Obligations.FrameOfSampleOperations := by
  refine ⟨fun s t res ch raw h => ?_, fun s t res raw h => ?_⟩
  · cases execSampleCc_move h with
    | invalid | unavailable | inWindow | dropped =>
      exact ⟨rfl, rfl, fun _ _ => rfl, fun _ _ => rfl, fun _ => ⟨rfl, rfl⟩⟩
    | primed =>
      exact ⟨rfl, List.length_set, fun _ hj => List.getElem?_set_ne hj.symm, fun _ _ => rfl, fun _ => ⟨rfl, rfl⟩⟩
    | enqueued =>
      exact ⟨rfl, List.length_set, fun _ hj => List.getElem?_set_ne hj.symm,
        fun _ hj => Memory.read_write_other _ _ _ _ hj, fun hne => absurd rfl hne⟩
  · cases execSamplePb_move h with
    | invalid | unavailable | quiet | dropped => exact ⟨rfl, fun _ _ => rfl, fun _ => ⟨rfl, rfl, rfl⟩⟩
    | enqueued => exact ⟨rfl, fun _ hj => Memory.read_write_other _ _ _ _ hj, fun hne => absurd rfl hne⟩

end Sys2Proof.Machine
end

section
/-! One SAMPLE_PB of a sample: its result, the smoother and its convergence (spec/41_pitchbend.md R131 to R136,
R142). -/

namespace Sys2Proof.Machine

open Sys2Proof.Claims

variable {s : State} {raw : RawSample}

/-- A new value while Enabled is not the case in which nothing is sent (R135). -/
theorem not_disabled_or_sent (hm : s.mode = .enabled) (hnew : s.ls ≠ some (bendOf s.sm raw)) :
    ¬ (s.mode = .disabled ∨ s.ls = some (bendOf s.sm raw)) :=
  not_or.2 ⟨by simp [hm], hnew⟩

/-- Settles O16: the operation completes, and each way through it is the one the mode, `ls` and the queue select. -/
theorem pitchBendSampleResult : Obligations.PitchBendSampleResult := by
  intro s raw
  obtain ⟨t, ht⟩ : ∃ t, exec (.samplePb .sample raw) s = .next t := ⟨_, rfl⟩
  rw [ht, smoothed_eq]
  cases execSamplePb_move ht with
  | invalid hres | unavailable hres => cases hres
  | quiet _ hold =>
    exact ⟨fun _ => rfl, fun hm hnew => absurd hold (not_disabled_or_sent hm hnew),
      fun hm hnew => absurd hold (not_disabled_or_sent hm hnew)⟩
  | enqueued _ hm hnew hroom =>
    exact ⟨fun hold => absurd hold (not_disabled_or_sent hm hnew), fun _ _ _ => ⟨_, rfl⟩,
      fun _ _ hfull => absurd hfull hroom⟩
  | dropped _ hm hnew hfull =>
    exact ⟨fun hold => absurd hold (not_disabled_or_sent hm hnew), fun _ _ hroom => absurd hfull hroom,
      fun _ _ _ => ⟨_, rfl⟩⟩

/-- A valid sample completes, and its smoothing does not wait for the mode, `ls` or the queue (R136). -/
theorem exec_samplePb_sm (s : State) (raw : RawSample) :
    ∃ t, exec (.samplePb .sample raw) s = .next t ∧ t.sm = smoothed s.sm raw := by
  obtain ⟨t, ht⟩ : ∃ t, exec (.samplePb .sample raw) s = .next t := ⟨_, rfl⟩
  refine ⟨t, ht, ?_⟩
  rw [smoothed_eq]
  cases execSamplePb_move ht with
  | invalid hres | unavailable hres => cases hres
  | quiet | enqueued | dropped => rfl

/-! ### The smoother -/

/-- Within the noise gate (R132). -/
theorem smoothed_gated {sm : Int} (hlo : -31 ≤ deltaOf sm raw) (hhi : deltaOf sm raw ≤ 31) : smoothed sm raw = sm :=
  if_pos ⟨hlo, hhi⟩

/-- Above the noise gate (R133). -/
theorem smoothed_above {sm : Int} (h : 31 < deltaOf sm raw) :
    smoothed sm raw = sm + Int.tdiv (deltaOf sm raw) 4 ∧ Int.tdiv (deltaOf sm raw) 4 = deltaOf sm raw / 4 :=
  ⟨if_neg (by omega), Int.tdiv_eq_ediv_of_nonneg (by omega)⟩

/-- Below the noise gate (R133). -/
theorem smoothed_below {sm : Int} (h : deltaOf sm raw < -31) :
    smoothed sm raw = sm + Int.tdiv (deltaOf sm raw) 4 ∧ Int.tdiv (deltaOf sm raw) 4 = -(-deltaOf sm raw / 4) :=
  ⟨if_neg (by omega), by rw [← tdiv_eq, tdiv_neg (by omega)]⟩

/-- Settles O19: in each of the three cases the quarter of the difference is bounded by the difference. -/
theorem smoothingMovesTowardTheControl : Obligations.SmoothingMovesTowardTheControl := by
  intro s raw
  obtain ⟨t, ht, hsm⟩ := exec_samplePb_sm s raw
  have hdelta : deltaOf s.sm raw = 4 * (raw.toNat : Int) - s.sm := rfl
  refine ⟨t, ht, fun ⟨hlo, hhi⟩ => hsm.trans (smoothed_gated hlo hhi), fun h => ?_, fun h => ?_⟩
  · obtain ⟨hmove, hquarter⟩ := smoothed_above h
    omega
  · obtain ⟨hmove, hquarter⟩ := smoothed_below h
    omega

/-! ### Convergence under a constant input -/

/-- The distance of `sm` from the control (R132). -/
def gap (sm : Int) (raw : RawSample) : Nat := (deltaOf sm raw).natAbs

/-- What one sample leaves of a distance of at most `d`: the gate's reach, or three quarters rounded up. -/
def gapBound (d : Nat) : Nat := max 31 (d - d / 4)

theorem gapBound_mono : Monotone gapBound := by
  intro d e h
  simp only [gapBound]
  omega

/-- One sample brings `sm` as near as the bound says (R132, R133). -/
theorem gap_smoothed_le (sm : Int) (raw : RawSample) : gap (smoothed sm raw) raw ≤ gapBound (gap sm raw) := by
  have hdelta (x : Int) : deltaOf x raw = 4 * (raw.toNat : Int) - x := rfl
  rw [gapBound, gap, gap, hdelta (smoothed sm raw)]
  obtain hlow | hgate | hhigh :
      deltaOf sm raw < -31 ∨ (-31 ≤ deltaOf sm raw ∧ deltaOf sm raw ≤ 31) ∨ 31 < deltaOf sm raw := by omega
  · obtain ⟨hmove, hquarter⟩ := smoothed_below hlow
    have := hdelta sm
    omega
  · rw [smoothed_gated hgate.1 hgate.2, ← hdelta]
    omega
  · obtain ⟨hmove, hquarter⟩ := smoothed_above hhigh
    have := hdelta sm
    omega

/-- The same sample `k` times completes, each repetition bringing `sm` nearer (R142). -/
theorem bendTimes_gap (raw : RawSample) (k : Nat) (s : State) :
    ∃ t, bendTimes raw k s = .next t ∧ gap t.sm raw ≤ gapBound^[k] (gap s.sm raw) := by
  induction k generalizing s with
  | zero => exact ⟨s, rfl, le_rfl⟩
  | succ k ih =>
    obtain ⟨u, hu, hsm⟩ := exec_samplePb_sm s raw
    obtain ⟨t, ht, hgap⟩ := ih u
    refine ⟨t, by rw [bendTimes, hu, andThen_next, ht], ?_⟩
    calc gap t.sm raw
      _ ≤ gapBound^[k] (gap u.sm raw) := hgap
      _ ≤ gapBound^[k] (gapBound (gap s.sm raw)) :=
        gapBound_mono.iterate k (hsm ▸ gap_smoothed_le s.sm raw)

/-- The distance is at most the width of the expanded range (R139). -/
theorem gap_le_of_smOk (h : SmOk s) (raw : RawSample) : gap s.sm raw ≤ 16380 := by
  have hraw := RawSample.toNat_lt raw
  obtain ⟨hlo, hhi⟩ := h
  simp only [gap, deltaOf]
  omega

/-- Settles O20: 22 samples bring the greatest distance, and so each, within the gate, where the next leaves `sm`. -/
theorem constantPitchBendConverges : Obligations.ConstantPitchBendConverges := by
  intro s raw hs
  obtain ⟨t, ht, hgap⟩ := bendTimes_gap raw 22 s
  have hin : gap t.sm raw ≤ 31 :=
    calc gap t.sm raw
      _ ≤ gapBound^[22] (gap s.sm raw) := hgap
      _ ≤ gapBound^[22] 16380 := gapBound_mono.iterate 22 (gap_le_of_smOk hs raw)
      _ = 31 := by decide
  rw [gap] at hin
  have hlo : -31 ≤ deltaOf t.sm raw := by omega
  have hhi : deltaOf t.sm raw ≤ 31 := by omega
  obtain ⟨u, hu, hsm⟩ := exec_samplePb_sm t raw
  exact ⟨t, ht, hlo, hhi, u, hu, hsm.trans (smoothed_gated hlo hhi)⟩

end Sys2Proof.Machine
end

section
/-! The fix-up function: it never decreases, so a few of its values say where it reaches its ends and its centre
(spec/41_pitchbend.md R134, R139, R140). -/

namespace Sys2Proof.Machine

theorem rescale_mono : Monotone rescale := by
  intro x y h
  simp only [rescale, tdiv_eq]
  exact Int.tdiv_le_tdiv (by decide) (Int.mul_le_mul_of_nonneg_right h (by decide))

theorem clamp_mono : Monotone clamp := by
  intro x y h
  simp only [clamp, Config.pbMax]
  split_ifs <;> omega

/-- The centre, to which the deadband collapses, lies between what is left below it and above it (R140). -/
theorem deadband_mono : Monotone deadband := by
  intro x y h
  simp only [deadband, Config.pbCenter, Config.pbDeadband, abs_le]
  split_ifs <;> omega

theorem scale_mono : Monotone scale := fun _ _ h =>
  deadband_mono (clamp_mono (Int.add_le_add_right (rescale_mono (Int.sub_le_sub_right h _)) _))

/-- The fix-up leaves the bottom of the 14-bit domain between 65 and 66 (R139). -/
theorem scale_eq_zero_iff (x : Int) : scale x = 0 ↔ x ≤ 65 := by
  have hfits := scale_fits x
  have hlast : scale 65 = 0 := by decide
  have hnext : scale 66 = 1 := by decide
  obtain h | h : x ≤ 65 ∨ 66 ≤ x := by omega
  · have := scale_mono h
    omega
  · have := scale_mono h
    omega

/-- The fix-up reaches the top of the 14-bit domain between 16317 and 16318 (R139). -/
theorem scale_eq_max_iff (x : Int) : scale x = 16383 ↔ 16318 ≤ x := by
  have hfits := scale_fits x
  have hfirst : scale 16318 = 16383 := by decide
  have hprev : scale 16317 = 16382 := by decide
  obtain h | h : 16318 ≤ x ∨ x ≤ 16317 := by omega
  · have := scale_mono h
    omega
  · have := scale_mono h
    omega

theorem scale_below_deadband : scale 8091 = 8091 := by decide

theorem scale_above_deadband : scale 8293 = 8293 := by decide

/-- The centre is reached at the ends of the deadband, and not at the values next to them (R139, R140). -/
theorem scale_eq_center_iff (x : Int) : scale x = 8192 ↔ 8092 ≤ x ∧ x ≤ 8292 := by
  have hfirst : scale 8092 = 8192 := by decide
  have hlast : scale 8292 = 8192 := by decide
  obtain h | ⟨hlo, hhi⟩ | h : x ≤ 8091 ∨ (8092 ≤ x ∧ x ≤ 8292) ∨ 8293 ≤ x := by omega
  · have := (scale_mono h).trans_eq scale_below_deadband
    omega
  · have := scale_mono hlo
    have := scale_mono hhi
    omega
  · have := scale_above_deadband.ge.trans (scale_mono h)
    omega

/-- Settles O17: the smoother stays in its range, and the monotone fix-up enters and leaves each value at one place. -/
theorem pitchBendRanges : Obligations.PitchBendRanges :=
  ⟨fun _ raw hs => smooth_range hs raw, fun x _ _ =>
    ⟨(scale_fits x).1, (scale_fits x).2, fixedup_toNat x, scale_eq_zero_iff x, scale_eq_max_iff x,
      scale_eq_center_iff x⟩⟩

/-- Settles O18: each of the fix-up's three parts never decreases, and the deadband is where the value is the centre. -/
theorem fixUpIsMonotone : Obligations.FixUpIsMonotone :=
  ⟨fun _ _ h => scale_mono h, fun x hlo hhi => (scale_eq_center_iff x).2 (by omega), scale_below_deadband,
    scale_above_deadband⟩

end Sys2Proof.Machine
end

section
/-! The two bare requests on bus `Q` (spec/42_event_queue.md R152 to R155): their answers as numbers, what each does,
and what it leaves unchanged. -/

namespace Sys2Proof.Machine

open Sys2Proof.Claims

variable {s t : State}

/-! ### The answers -/

/-- An answer without an entry (30_encoding.md R86). -/
theorem answerWord_none (ok : Bool) : answerWord ok 0#24 = answerOf ok 0 := by cases ok <;> rfl

/-- An answer that carries an entry (30_encoding.md R86, 20_memory.md R52). -/
theorem answerWord_entry (ok : Bool) (e : Entry) : answerWord ok e.word = answerOf ok (entryNum e) := by
  rw [answerOf, entryNum, ← entryWord_value, ← answerWord_value, BitVec.ofNat_toNat, BitVec.setWidth_eq]

/-! ### ENQ -/

theorem exec_enq (e : Entry) (s : State) : exec (.enq e.tag e.value) s = .next (enqueue e s).1 := rfl

/-- A full queue drops the new entry (42_event_queue.md R153). -/
theorem enqueue_full_fst (e : Entry) (hf : QueueFull s) :
    (enqueue e s).1 = { s with enqAnswer := some (answerOf false 0) } := by
  rw [enqueue_full hf, answerWord_none]

/-- The entry is stored in the next slot and published (42_event_queue.md R152). -/
theorem enqueue_success_fst (e : Entry) (hf : ¬ QueueFull s) :
    (enqueue e s).1 = { s with
      slots := Memory.write s.slots (advance s.capacity s.wr) e
      wr := advance s.capacity s.wr
      enqAnswer := some (answerOf true 0) } := by
  rw [enqueue_success hf, answerWord_none]

/-- ENQ writes no slot but the next one (20_memory.md R61). -/
theorem slotRead_enqueue_other (e : Entry) (s : State) {j : Nat} (hj : j ≠ advance s.capacity s.wr) :
    slotRead (enqueue e s).1 j = slotRead s j := by
  rcases enqueue_cases e s with ⟨-, h⟩ | ⟨-, h⟩ <;> rw [h]
  · rfl
  · exact Memory.read_write_other _ _ _ _ hj

/-- Settles O22: the two clauses are the two branches of EQ1's test. -/
theorem enqResult : Obligations.EnqResult := by
  intro s tag value
  refine ⟨fun hf => congrArg _ (enqueue_full_fst ⟨tag, value⟩ hf), fun hf => ?_⟩
  have ht := enqueue_success_fst ⟨tag, value⟩ hf
  refine ⟨_, exec_enq ⟨tag, value⟩ s, ?_, ?_, fun j => slotRead_enqueue_other ⟨tag, value⟩ s⟩ <;> rw [ht]
  · rfl
  · exact Memory.read_write_same _ _ _

/-! ### DEQ -/

/-- DEQ of an empty queue answers `empty` (42_event_queue.md R155). -/
theorem exec_deq_empty (hq : QueueEmpty s) :
    exec .deq s = .next { s with deqAnswer := some (answerOf false 0) } := by
  rw [exec, execDeq, dequeue_empty hq, andThen_next, answerWord_none]

/-- DEQ of a queue with an entry moves `rd` and answers the entry there (42_event_queue.md R155). -/
theorem exec_deq_entry {e : Entry} (hq : ¬ QueueEmpty s) (he : slotRead s (advance s.capacity s.rd) = some e) :
    exec .deq s = .next { s with
      rd := advance s.capacity s.rd
      deqAnswer := some (answerOf true (entryNum e)) } := by
  rw [exec, execDeq, dequeue_success hq he, andThen_next, answerWord_entry]

/-- Settles O23: the two clauses are the two branches of DQ1's test. -/
theorem deqResult : Obligations.DeqResult :=
  fun _ => ⟨exec_deq_empty, fun _ hq he => exec_deq_entry hq he⟩

/-- Settles O27: in each way a request ends, every field it does not write is the old one. -/
theorem frameOfQueueRequests : Obligations.FrameOfQueueRequests := by
  refine ⟨fun s t tag value h => ?_, fun s t h => ?_⟩
  · cases h
    refine ⟨?_, fun j => slotRead_enqueue_other ⟨tag, value⟩ s⟩
    rcases enqueue_cases ⟨tag, value⟩ s with ⟨-, h⟩ | ⟨-, h⟩ <;> rw [h]
  · obtain ⟨⟨u, o⟩, hd, hu⟩ := andThen_eq_next.1 h
    cases hu
    rcases dequeue_cases hd with ⟨-, -, rfl⟩ | ⟨-, e, -, -, rfl⟩ <;> rfl

end Sys2Proof.Machine
end

section
/-! The queue as a list of entries under the two requests, and how many it holds (spec/42_event_queue.md R156, R157,
R159, 10_state.md R31). -/

namespace Sys2Proof.Machine

open Sys2Proof.Claims

variable {s : State}

/-- A full queue holds one entry less than it has slots (42_event_queue.md R157). -/
theorem queueFull_iff (hi : IndicesOk s) : QueueFull s ↔ queueCount s + 1 = s.capacity := by
  obtain ⟨hr, hw⟩ := hi
  rw [QueueFull, advance_eq hw, queueCount_eq s hr hw]
  split <;> split <;> omega

theorem queued_of_empty (hi : IndicesOk s) (hq : QueueEmpty s) : queued s = [] := by
  rw [queued, (queueCount_eq_zero_iff s hi.1 hi.2).2 hq]
  rfl

/-! ### ENQ -/

section
variable (hi : IndicesOk s) (e : Entry)
include hi

theorem indicesOk_enqueue : IndicesOk (enqueue e s).1 := by
  obtain ⟨hr, hw⟩ := hi
  rcases enqueue_cases e s with ⟨-, h⟩ | ⟨-, h⟩ <;> rw [h]
  · exact ⟨hr, hw⟩
  · exact ⟨hr, advance_lt (Nat.zero_lt_of_lt hr)⟩

/-- The entry stands last, behind those that were queued (42_event_queue.md R156). -/
theorem queued_enqueue (hf : ¬ QueueFull s) : queued (enqueue e s).1 = queued s ++ [e] := by
  rw [enqueue_success hf, ← queued_slotWrite hi e]
  exact queued_publish (s := slotWrite (advance s.capacity s.wr) e s) hi hf (Memory.read_write_same _ _ _)

theorem queueCount_enqueue (hf : ¬ QueueFull s) : queueCount (enqueue e s).1 = queueCount s + 1 := by
  rw [enqueue_success hf, ← queueCount_publish hi hf]
  rfl

end

theorem enqueue_capacity (e : Entry) (s : State) : (enqueue e s).1.capacity = s.capacity :=
  (parameters_eq_iff.1 (enqueue_parameters e s)).2

/-- The entry DEQ takes was written (42_event_queue.md R161). -/
theorem exists_oldest (hi : IndicesOk s) (hqueue : QueueOk s) (hq : ¬ QueueEmpty s) :
    ∃ e, slotRead s (advance s.capacity s.rd) = some e := by
  have hpos : 0 < queueCount s := Nat.pos_of_ne_zero fun h0 => hq ((queueCount_eq_zero_iff s hi.1 hi.2).1 h0)
  obtain ⟨e, he, -⟩ := slotLegal_iff.1 (hqueue 0 hpos)
  exact ⟨e, he⟩

/-- Settles O24: ENQ writes outside the queue and publishes at its end, DEQ drops its first place. -/
theorem queueIsFirstInFirstOut : Obligations.QueueIsFirstInFirstOut := by
  intro s hc hi hqueue
  refine ⟨fun tag value hf => ?_, fun hq => ?_⟩
  · have hlt : queueCount (enqueue ⟨tag, value⟩ s).1 < s.capacity := by
      rw [← enqueue_capacity ⟨tag, value⟩ s]
      exact queueCount_lt _ (by rw [enqueue_capacity]; omega)
    exact ⟨_, exec_enq ⟨tag, value⟩ s, queued_enqueue hi _ hf, queueCount_enqueue hi _ hf, Nat.le_sub_one_of_lt hlt⟩
  · obtain ⟨e, he⟩ := exists_oldest hi hqueue hq
    exact ⟨_, e, exec_deq_entry hq he, queued_take hi hq he, rfl, queueCount_take hi hq⟩

/-! ### The capacity -/

theorem enqueueAll_cons (e : Entry) (es : List Entry) (s : State) :
    enqueueAll (e :: es) s =
      (enqueueAll es (enqueue e s).1).map fun r => (r.1, (enqueue e s).1.enqAnswer :: r.2) := rfl

/-- Entries that just fill the queue are stored in order, and one more is dropped (42_event_queue.md R153, R157). -/
theorem enqueueAll_fills (es : List Entry) (e : Entry) {s : State} (hi : IndicesOk s)
    (hlen : queueCount s + es.length + 1 = s.capacity) :
    ∃ t, enqueueAll (es ++ [e]) s = some (t, List.replicate es.length (some (answerOf true 0)) ++
        [some (answerOf false 0)]) ∧
      queued t = queued s ++ es := by
  induction es generalizing s with
  | nil =>
    have hf : QueueFull s := (queueFull_iff hi).2 hlen
    refine ⟨(enqueue e s).1, ?_, ?_⟩
    · rw [List.nil_append, enqueueAll_cons, enqueue_full_fst e hf]
      rfl
    · rw [enqueue_full_fst e hf, List.append_nil]
      rfl
  | cons d ds ih =>
    rw [List.length_cons] at hlen
    have hf : ¬ QueueFull s := by rw [queueFull_iff hi]; omega
    have hanswer : (enqueue d s).1.enqAnswer = some (answerOf true 0) := by rw [enqueue_success_fst d hf]
    obtain ⟨t, hrun, ht⟩ := ih (indicesOk_enqueue hi d)
      (by rw [queueCount_enqueue hi d hf, enqueue_capacity]; omega)
    refine ⟨t, ?_, ?_⟩
    · rw [List.cons_append, enqueueAll_cons, hrun, hanswer]
      rfl
    · rw [ht, queued_enqueue hi d hf, List.append_assoc, List.singleton_append]

/-- Settles O25: an empty queue is filled by all entries but the last, which is dropped. -/
theorem capacityIsOneLessThanTheSlots : Obligations.CapacityIsOneLessThanTheSlots := by
  intro s es hc hi hq hlen
  obtain rfl | ⟨init, e, rfl⟩ := es.eq_nil_or_concat'
  · exact absurd hlen (by simp; omega)
  have hC : s.capacity = init.length + 1 := by simpa using hlen.symm
  have hcount : queueCount s = 0 := (queueCount_eq_zero_iff s hi.1 hi.2).2 hq
  obtain ⟨t, hrun, ht⟩ := enqueueAll_fills init e hi (by omega)
  rw [hC, Nat.add_sub_cancel, List.take_left]
  exact ⟨t, hrun, by rw [ht, queued_of_empty hi hq, List.nil_append]⟩

end Sys2Proof.Machine
end

section
/-! FRAME_NOTIFY by the state it meets, and the stops of the packet records (spec/43_packetizer.md R171, R175, R178,
R179, R187, 60_exceptions.md R204). -/

namespace Sys2Proof.Machine

open Sys2Proof.Claims

variable {s t : State}

/-! ### The drain and its end, once the endpoint is idle -/

/-- FN2 has made room for a packet (43_packetizer.md R175, R178). -/
theorem room_cleared (s : State) : Room { s with txn := 0 } := by
  simp [Room, Config.packetBytes, Config.maxPacket]

/-- FN1 lets a notification through to the loop, which begins with an empty buffer (43_packetizer.md R178). -/
theorem execFrameNotify_idle (hb : s.epBusy = false) :
    execFrameNotify s = andThen (drain 16 { s with txn := 0 }) finishDrain :=
  if_neg (by simp [hb])

/-- Settles O33: FN1 ends the operation. -/
theorem frameNotifyWhileBusy : Obligations.FrameNotifyWhileBusy := fun _ => execFrameNotify_busy

/-- Settles O34: the first DEQ answers `empty`, so FN4 meets no bytes. -/
theorem frameNotifyOnAnEmptyQueue : Obligations.FrameNotifyOnAnEmptyQueue := by
  intro s hb hq
  rw [exec, execFrameNotify_idle hb, drain_empty (room_cleared s) hq, andThen_next, answerWord_none]
  exact finishDrain_nothing rfl

/-! ### The stops -/

theorem entryPacket_unknown {n : Nat} {e : Entry} (ht : e.tag ≠ Config.tagPb) (hn : n ≤ e.tag.toNat) :
    entryPacket n e = none := by
  rw [entryPacket, if_neg ht, if_neg (Nat.not_lt.2 hn)]

theorem exec_deq_unwritten (hq : ¬ QueueEmpty s) (he : slotRead s (advance s.capacity s.rd) = none) :
    exec .deq s = .fault .slotNotWritten := by
  rw [exec, execDeq, dequeue_unwritten hq he, andThen_fault]

/-- The tag of the first entry is met before any packet is written (43_packetizer.md R187). -/
theorem execFrameNotify_unknown {e : Entry} (hb : s.epBusy = false) (hq : ¬ QueueEmpty s)
    (he : slotRead s (advance s.capacity s.rd) = some e) (hp : entryPacket s.channels e = none) :
    execFrameNotify s = .refused (.unknownTag e.tag) := by
  rw [execFrameNotify_idle hb, drain_unknown (s := { s with txn := 0 }) (room_cleared s) hq he hp, andThen_refused]

theorem recordPacket_inFlight (p : Packet) (hb : s.epBusy = true) :
    recordPacket p s = .refused .transmitBufferInFlight := if_pos hb

theorem recordPacket_full (p : Packet) (hb : s.epBusy = false) (hr : 64 < s.txn + 4) :
    recordPacket p s = .refused .transmitBufferFull := by
  rcases recordPacket_cases p s with ⟨hb', -⟩ | ⟨-, hr', -⟩ | ⟨-, -, h⟩
  · cases hb.symm.trans hb'
  · omega
  · exact h

/-- Settles O39: DQ3 of DEQ, the first packet write of the drain, and the two tests of a packet record. -/
theorem formsTheModelStopsOn : Obligations.FormsTheModelStopsOn :=
  ⟨fun _ => exec_deq_unwritten,
    fun _ _ hb hq he ht hn => execFrameNotify_unknown hb hq he (entryPacket_unknown ht hn),
    fun _ _ _ hb => ⟨recordPacket_inFlight _ hb, recordPacket_inFlight _ hb⟩,
    fun _ _ _ hb hr => ⟨recordPacket_full _ hb hr, recordPacket_full _ hb hr⟩⟩

/-! ### TRANSFER_DONE -/

theorem transferDone_busy (hb : s.epBusy = true) : transferDone s = .next { s with epBusy := false } := if_pos hb

theorem transferDone_idle (hb : s.epBusy = false) : transferDone s = .fault .stuckTransferDone :=
  if_neg (by simp [hb])

/-- Settles O53: the event comes off the schedule and meets the busy bit as it was. -/
theorem transferDoneOnlyClearsBusy : Obligations.TransferDoneOnlyClearsBusy := by
  intro s rest hs
  rw [step_of_cons hs]
  exact ⟨transferDone_busy (s := { s with events := rest }), transferDone_idle (s := { s with events := rest })⟩

end Sys2Proof.Machine
end

section
/-! What FRAME_NOTIFY leaves unchanged, in every state (spec/43_packetizer.md R171, R178). -/

namespace Sys2Proof.Machine

variable {s t : State}

/-- The loop of FN3 stores below the new `txn` only, and writes no register but `rd` and `txn` (R178). -/
theorem drain_frame {k : Nat} (h : drain k s = .next t) :
    (∃ rd tx n da, t = { s with rd := rd, tx := tx, txn := n, deqAnswer := da }) ∧ s.txn ≤ t.txn ∧
      ∀ off, t.txn ≤ off → txRead t off = txRead s off := by
  induction k generalizing s with
  | zero => cases h; exact ⟨⟨_, _, _, _, rfl⟩, le_rfl, fun _ _ => rfl⟩
  | succ k ih =>
    rcases drain_succ_cases h with ⟨-, rfl⟩ | ⟨-, -, rfl⟩ | ⟨-, -, e, p, -, -, hd⟩
    · exact ⟨⟨_, _, _, _, rfl⟩, le_rfl, fun _ _ => rfl⟩
    · exact ⟨⟨_, _, _, _, rfl⟩, le_rfl, fun _ _ => rfl⟩
    · obtain ⟨⟨rd, tx, n, da, ht⟩, htxn, hread⟩ := ih hd
      have htxn' : s.txn + 4 ≤ t.txn := htxn
      refine ⟨⟨rd, tx, n, da, ht⟩, by omega, fun off hoff => (hread off hoff).trans ?_⟩
      exact txRead_appendPacket_other p (.inr (htxn'.trans hoff))

/-- The ways FRAME_NOTIFY completes, by the state they lead to (R178). -/
inductive FrameNotifyMove (s : State) : State → Prop where
  | busy (hb : s.epBusy = true) : FrameNotifyMove s { s with tstat := .endpointBusy }
  | nothing {u : State} (hb : s.epBusy = false) (hd : drain 16 { s with txn := 0 } = .next u) (h0 : u.txn = 0) :
    FrameNotifyMove s { u with tstat := .noTransfer }
  | submitted {u : State} {bytes : List Byte} (hb : s.epBusy = false)
      (hd : drain 16 { s with txn := 0 } = .next u) (h0 : u.txn ≠ 0) (hbytes : txBlock u u.txn = some bytes) :
    FrameNotifyMove s { u with
      txlog := u.txlog ++ [{ bytes := bytes, len := u.txn, short := decide (u.txn ≠ 64) }]
      epBusy := true
      tstat := .submitted }

theorem execFrameNotify_move (h : execFrameNotify s = .next t) : FrameNotifyMove s t := by
  cases hb : s.epBusy with
  | true => cases (execFrameNotify_busy hb).symm.trans h; exact .busy hb
  | false =>
    rw [execFrameNotify_idle hb] at h
    obtain ⟨u, hd, hf⟩ := andThen_eq_next.1 h
    rcases finishDrain_cases hf with ⟨h0, rfl⟩ | ⟨h0, bytes, hbytes, rfl⟩
    · exact .nothing hb hd h0
    · exact .submitted hb hd h0 hbytes

/-- Settles O36: FN1 and FN4 store no byte, and between them stands the loop. -/
theorem frameOfFrameNotify : Obligations.FrameOfFrameNotify := by
  intro s t h
  cases execFrameNotify_move h with
  | busy => exact ⟨rfl, fun _ _ => rfl, fun _ => rfl⟩
  | nothing hb hd =>
    obtain ⟨⟨rd, tx, n, da, rfl⟩, -, hread⟩ := drain_frame hd
    exact ⟨rfl, hread, fun hb' => by cases hb.symm.trans hb'⟩
  | submitted hb hd =>
    obtain ⟨⟨rd, tx, n, da, rfl⟩, -, hread⟩ := drain_frame hd
    exact ⟨rfl, hread, fun hb' => by cases hb.symm.trans hb'⟩

end Sys2Proof.Machine
end

section
/-! A drain takes the oldest entries, at most 16, and submits their packets in order (spec/43_packetizer.md R172, R175
to R179): each turn of the loop moves the first queued entry's packet behind the bytes already in the buffer. -/

namespace Sys2Proof.Machine

variable {s t : State}

/-- The queue stays legal when its first entry is taken (42_event_queue.md R155, R161). -/
theorem QueueOk.take (hqueue : QueueOk s) (hi : IndicesOk s) (hq : ¬ QueueEmpty s) :
    QueueOk { s with rd := advance s.capacity s.rd } := fun k hk => by
  have hk' : k + 1 < queueCount s := by rw [← queueCount_take hi hq]; exact Nat.succ_lt_succ hk
  exact (queuedPlace_take s.capacity s.rd k).symm ▸ hqueue (k + 1) hk'

/-- The first queued entry was written and has a packet (43_packetizer.md R173, R174). -/
theorem exists_oldest_packet (hn : s.channels ≤ 117) (hi : IndicesOk s) (hqueue : QueueOk s) (hq : ¬ QueueEmpty s) :
    ∃ e p, slotRead s (advance s.capacity s.rd) = some e ∧ entryPacket s.channels e = some p := by
  have hpos : 0 < queueCount s := Nat.pos_of_ne_zero fun h0 => hq ((queueCount_eq_zero_iff s hi.1 hi.2).1 h0)
  obtain ⟨e, he, hle⟩ := slotLegal_iff.1 (hqueue 0 hpos)
  obtain ⟨p, hp, -⟩ := entryPacket_of_legal hn hle
  exact ⟨e, p, he, hp⟩

/-- From `s` to `t` the first queued entries `es` left the queue and their packets followed the bytes in the buffer. -/
structure Drained (es : List Entry) (s t : State) : Prop where
  registers : ∃ tx da, t = { s with
    rd := (s.rd + es.length) % s.capacity, tx := tx, txn := s.txn + 4 * es.length, deqAnswer := da }
  queued : queued s = es ++ queued t
  block : ∀ bytes, txBlock s s.txn = some bytes →
    txBlock t t.txn = some (bytes ++ es.flatMap (entryBytes s.channels))

/-- A turn that takes nothing. -/
theorem drained_nil (hi : IndicesOk s) (da : Option AnswerWord) : Drained [] s { s with deqAnswer := da } where
  registers := by
    refine ⟨s.tx, da, ?_⟩
    rw [List.length_nil, Nat.add_zero, Nat.mul_zero, Nat.add_zero, Nat.mod_eq_of_lt hi.1]
  queued := rfl
  block := fun bytes hb => by rw [List.flatMap_nil, List.append_nil]; exact hb

/-- A turn that takes the first entry, and the turns after it (43_packetizer.md R172). -/
theorem Drained.cons {es : List Entry} {e : Entry} {p : Packet} {da : Option AnswerWord} (hi : IndicesOk s)
    (hq : ¬ QueueEmpty s) (he : slotRead s (advance s.capacity s.rd) = some e)
    (hp : entryPacket s.channels e = some p)
    (h : Drained es (appendPacket p { s with rd := advance s.capacity s.rd, deqAnswer := da }) t) :
    Drained (e :: es) s t where
  registers := by
    obtain ⟨tx, da', ht⟩ := h.registers
    refine ⟨tx, da', ht.trans ?_⟩
    have hrd : (advance s.capacity s.rd + es.length) % s.capacity = (s.rd + (es.length + 1)) % s.capacity := by
      rw [advance, Nat.mod_add_mod, Nat.add_assoc, Nat.add_comm 1]
    have htxn : s.txn + 4 + 4 * es.length = s.txn + 4 * (es.length + 1) := by omega
    rw [List.length_cons, ← hrd, ← htxn]
    rfl
  queued := (queued_take hi hq he).trans (congrArg (e :: ·) h.queued)
  block := fun bytes hb => by
    have hbytes : entryBytes s.channels e = packetBytes p := by rw [entryBytes, hp]
    rw [List.flatMap_cons, hbytes, ← List.append_assoc]
    exact h.block _ (txBlock_appendPacket p hb)

/-- With room for `k` more packets the loop takes the first `k` entries, or all there are (43_packetizer.md R175,
R179). -/
theorem drain_takes (k : Nat) (hn : s.channels ≤ 117) (hi : IndicesOk s) (hqueue : QueueOk s)
    (hroom : s.txn + 4 * k ≤ 64) : ∃ t, drain k s = .next t ∧ Drained ((queued s).take k) s t := by
  induction k generalizing s with
  | zero => exact ⟨s, rfl, drained_nil hi s.deqAnswer⟩
  | succ k ih =>
    have hr : Room s := by simp only [Room, Config.packetBytes, Config.maxPacket]; omega
    by_cases hq : QueueEmpty s
    · rw [queued_of_empty hi hq, List.take_nil]
      exact ⟨_, drain_empty hr hq, drained_nil hi _⟩
    · obtain ⟨e, p, he, hp⟩ := exists_oldest_packet hn hi hqueue hq
      have hi' : IndicesOk { s with rd := advance s.capacity s.rd } :=
        ⟨advance_lt (Nat.zero_lt_of_lt hi.1), hi.2⟩
      have hroom' : s.txn + 4 + 4 * k ≤ 64 := by omega
      obtain ⟨t, ht, htaken⟩ := ih (s := appendPacket p
        { s with rd := advance s.capacity s.rd, deqAnswer := some (answerWord true e.word) })
        hn hi' (hqueue.take hi hq) hroom'
      refine ⟨t, (drain_round hr hq he hp).trans ht, ?_⟩
      rw [queued_take hi hq he, List.take_succ_cons]
      exact htaken.cons hi hq he hp

/-- The bytes of a written block are what its offsets read as. -/
theorem txRead_of_txBlock {n : Nat} {bytes : List Byte} (h : txBlock s n = some bytes) {k : Nat} (hk : k < n) :
    txRead s k = bytes[k]? := by
  obtain ⟨-, hread⟩ := (Memory.block_eq_some_iff _ _ _ _).1 h
  rw [txRead, ← hread k hk, Nat.zero_add]

/-- Settles O35: the loop has room for 16 packets, and FN4 submits the block it has written. -/
theorem frameNotifyDrainsAndSubmits : Obligations.FrameNotifyDrainsAndSubmits := by
  intro s hpar hi hqueue hb hq es bytes
  obtain ⟨-, hn, -⟩ := hpar
  obtain ⟨u, hd, htaken⟩ := drain_takes (s := { s with txn := 0 }) 16 hn hi hqueue (Nat.le_refl 64)
  have hrun : exec .frameNotify s = finishDrain u := by rw [exec, execFrameNotify_idle hb, hd, andThen_next]
  obtain ⟨-, -, habove⟩ := drain_frame hd
  have hblock : txBlock u u.txn = some bytes := htaken.block [] rfl
  have hrest : queued u = (queued s).drop 16 :=
    (List.append_cancel_left ((List.take_append_drop 16 (queued s)).trans htaken.queued)).symm
  have hpos : 0 < es.length := by
    obtain ⟨e, -, he, -⟩ := exists_oldest_packet hn hi hqueue hq
    simp [es, queued_take hi hq he]
  obtain ⟨tx, da, hu⟩ := htaken.registers
  rw [Nat.zero_add] at hu
  subst hu
  have hne : 4 * es.length ≠ 0 := by omega
  exact ⟨_, hrun.trans (finishDrain_submit hne hblock), rfl, txBlock_length hblock, hpos,
    fun _ => txRead_of_txBlock hblock, habove, hrest⟩

end Sys2Proof.Machine
end

section
/-! The log grows one transfer at a time, and only TRANSFER_DONE ends one (spec/43_packetizer.md R180, R181, R184). -/

namespace Sys2Proof.Machine

variable {s t : State}

/-- The busy bit and the log: what a step can tell of transfers (R34, R37). -/
def State.endpoint (s : State) : Bool × List Transfer := (s.epBusy, s.txlog)

/-- What any move but RESET and TRANSFER_DONE does to the endpoint: nothing, or one submission to an idle one. -/
def SubmitsAtMostOne (s t : State) : Prop :=
  t.endpoint = s.endpoint ∨ (s.epBusy = false ∧ ∃ tr, t.endpoint = (true, s.txlog ++ [tr]))

theorem OnlyOwned.endpoint_eq (h : OnlyOwned .P s t) : t.endpoint = s.endpoint := by
  have he : t.endpoint = (withOwned .P t s).endpoint := congrArg State.endpoint h
  exact he

theorem submitsAtMostOne_frameNotify (h : execFrameNotify s = .next t) : SubmitsAtMostOne s t := by
  cases execFrameNotify_move h with
  | busy => exact .inl rfl
  | nothing hb hd =>
    obtain ⟨⟨rd, tx, n, da, rfl⟩, -⟩ := drain_frame hd
    exact .inl rfl
  | submitted hb hd =>
    obtain ⟨⟨rd, tx, n, da, rfl⟩, -⟩ := drain_frame hd
    exact .inr ⟨hb, _, rfl⟩

/-- FN4 is the one micro-step that submits, and a drain runs with the endpoint idle (R184). -/
theorem submitsAtMostOne_consumerStep (h : Inv s) (hstep : consumerStep s = .next t) : SubmitsAtMostOne s t := by
  cases consumerStep_move hstep with
  | idle | fn1Busy | fn1Idle | fn2 | fn3Room | fn3Full | dq1Empty | dq1Entry | dq2 | dq3 | write => exact .inl rfl
  | fn4 hc hf =>
    obtain ⟨hb, -⟩ := (consumerOk_fn4_iff hc).1 h.consumer
    rcases finishDrain_cases hf with ⟨-, rfl⟩ | ⟨-, bytes, -, rfl⟩
    · exact .inl rfl
    · exact .inr ⟨hb, _, rfl⟩

section
variable {i : Instr} (hcmd : i.isCommand = true)
include hcmd

theorem submitsAtMostOne_exec (h : exec i s = .next t) : SubmitsAtMostOne s t := by
  cases i with
  | sampleCc | samplePb => exact .inl (exec_owned rfl h).endpoint_eq
  | frameNotify => exact submitsAtMostOne_frameNotify h
  | enable | disable => cases h; exact .inl rfl
  | enq | deq | pktCc | pktPb => cases hcmd

theorem submitsAtMostOne_beginOperation (h : beginOperation i s = .next t) : SubmitsAtMostOne s t := by
  cases i with
  | sampleCc | samplePb | frameNotify => cases h; exact .inl rfl
  | enable | disable => exact submitsAtMostOne_exec hcmd h
  | enq | deq | pktCc | pktPb => cases hcmd

end

theorem submitsAtMostOne_deliverCommand {p : Port} {w : CmdWord} {run : Instr → State → Result}
    (hrun : ∀ i : Instr, i.isCommand = true → run i s = .next t → SubmitsAtMostOne s t)
    (h : deliverCommand p w run s = .next t) : SubmitsAtMostOne s t := by
  rcases deliverCommand_eq_next h with ⟨-, -, rfl⟩ | ⟨-, i, hi, hb⟩
  · cases p <;> exact .inl rfl
  · obtain ⟨-, -, hcmd⟩ := decodeCmd_eq_ok hi
    obtain ⟨-, -, hnext⟩ := atBoundary_eq_next hb
    exact hrun i hcmd hnext

/-- Every event but RESET submits at most one transfer or is TRANSFER_DONE (R181). -/
theorem deliver_endpoint (h : Inv s) {e : Event} (he : e.external = true) (hr : e ≠ .reset)
    (hd : deliver e s = .next t) :
    SubmitsAtMostOne s t ∨ (e = .transferDone ∧ s.epBusy = true ∧ t = { s with epBusy := false }) := by
  cases e with
  | command p w => exact .inl (submitsAtMostOne_deliverCommand (fun _ hcmd => submitsAtMostOne_exec hcmd) hd)
  | present p w =>
    exact .inl (submitsAtMostOne_deliverCommand (fun _ hcmd => submitsAtMostOne_beginOperation hcmd) hd)
  | micro p =>
    cases p with
    | P => exact .inl (.inl (producerStep_owned hd).endpoint_eq)
    | T => exact .inl (submitsAtMostOne_consumerStep h hd)
  | transferDone =>
    cases hb : s.epBusy with
    | true => cases (transferDone_busy hb).symm.trans hd; exact .inr ⟨rfl, rfl, rfl⟩
    | false => cases (transferDone_idle hb).symm.trans hd
  | reset => exact absurd rfl hr
  | enterIdle =>
    simp only [deliver, enterIdle] at hd
    split at hd <;> cases hd
    exact .inl (.inl rfl)
  | transportRead off =>
    simp only [deliver, transportRead] at hd
    split at hd <;> cases hd
    exact .inl (.inl rfl)
  | request | record => cases he

theorem step_endpoint (h : Inv s) (hr : s.events.head? ≠ some .reset) (hstep : step s = .next t) :
    SubmitsAtMostOne s t ∨
      (s.events.head? = some .transferDone ∧ s.epBusy = true ∧ t.endpoint = (false, s.txlog)) := by
  cases hs : s.events with
  | nil => rw [step_of_empty hs] at hstep; cases hstep; exact .inl (.inl rfl)
  | cons e rest =>
    obtain ⟨he, hrest⟩ := h.tail hs
    rw [step_of_cons hs] at hstep
    have hne : e ≠ .reset := fun heq => hr (by rw [hs, heq, List.head?_cons])
    rcases deliver_endpoint hrest he hne hstep with hsub | ⟨rfl, hb, rfl⟩
    · exact .inl hsub
    · exact .inr ⟨rfl, hb, rfl⟩

/-- Settles O49: a submission finds the endpoint idle, and its transfer is well formed since the state after it is one
of the invariant. -/
theorem atMostOneTransferIsInFlight : Obligations.AtMostOneTransferIsInFlight := by
  intro s t h hr hstep
  rcases step_endpoint h hr hstep with (hkept | ⟨hb, tr, hsub⟩) | ⟨hdone, hb, hend⟩
  · obtain ⟨hbusy, hlog⟩ := Prod.mk.inj hkept
    rw [hbusy]
    exact ⟨.inl hlog, fun hb hb' => (by cases hb.symm.trans hb'), fun hb hb' => (by cases hb.symm.trans hb')⟩
  · obtain ⟨hbusy, hlog⟩ := Prod.mk.inj hsub
    have hok : TransferOk tr := (everyStepKeepsTheInvariant s t h hstep).transfers tr (by simp [hlog])
    exact ⟨.inr ⟨hb, hbusy, tr, hok, hlog⟩, fun hb' => (by cases hb.symm.trans hb'), fun _ _ => by simp [hlog]⟩
  · obtain ⟨hbusy, hlog⟩ := Prod.mk.inj hend
    exact ⟨.inl hlog, fun _ _ => hdone, fun hb' => (by cases hb.symm.trans hb')⟩

end Sys2Proof.Machine
end

section
/-! ENABLE and DISABLE, and where they may begin (spec/44_mode_control.md R191 to R193, 70_reset_and_hazards.md
R240). -/

namespace Sys2Proof.Machine

variable {s : State}

/-! ### What the two operations do -/

/-- With `rd = wr` no entry is queued, whatever the indices and the capacity (10_state.md R31). -/
theorem queued_of_rd_eq_wr (h : s.rd = s.wr) : queued s = [] := by
  have hcount : queueCount s = 0 := by
    rw [queueCount, h, Nat.add_sub_cancel_left, Nat.mod_self]
  rw [queued, hcount, List.range_zero, List.filterMap_nil]

/-- Settles O40: the two words are among those the decoder was run on, and DISABLE puts `rd` at `wr`. -/
theorem modeOperationsResult : Obligations.ModeOperationsResult := by
  obtain ⟨-, henable, hdisable, -⟩ := writtenWordsDecode
  exact ⟨henable, hdisable, fun s => ⟨rfl, rfl, queued_of_rd_eq_wr rfl⟩⟩

/-! ### The boundary -/

section
variable {p : Port} {w : CmdWord}

/-- A word scheduled next, at either grain, is delivered to its port (20_memory.md R65). -/
theorem step_of_word {rest : List Event} (hs : s.events = .command p w :: rest ∨ s.events = .present p w :: rest) :
    ∃ run, step s = deliverCommand p w run { s with events := rest } := by
  rcases hs with hs | hs
  · exact ⟨exec, step_of_cons hs⟩
  · exact ⟨beginOperation, step_of_cons hs⟩

/-- An occupied port takes no word (70_reset_and_hazards.md R240). -/
theorem deliverCommand_occupied {run : Instr → State → Result} (hp : portIdle p s = false) :
    deliverCommand p w run s = .refused (.portOccupied p) := if_pos hp

/-- A mode change at an idle port waits for the other port (44_mode_control.md R193). -/
theorem deliverCommand_stuck {i : Instr} {run : Instr → State → Result} (hd : decodeCmd p w = .ok i)
    (hm : changesMode i = true) (hp : portIdle p s = true) (hs : portsIdle s = false) :
    deliverCommand p w run s = .fault .stuckModeChange := by
  obtain ⟨-, rfl, -⟩ := decodeCmd_eq_ok hd
  simp [deliverCommand, hp, hd, atBoundary, hm, hs]

end

/-- The words of ENABLE and DISABLE decode to operations that change the mode (R191, R192). -/
theorem exists_changesMode {w : CmdWord} (hw : w = 0xC0000000#32 ∨ w = 0xD0000000#32) :
    ∃ i, decodeCmd .T w = .ok i ∧ changesMode i = true := by
  obtain ⟨-, henable, hdisable, -⟩ := writtenWordsDecode
  rcases hw with rfl | rfl
  · exact ⟨_, henable, rfl⟩
  · exact ⟨_, hdisable, rfl⟩

/-- Settles O41: the word meets the two ports as they were, and the boundary's test answers it. -/
theorem operationsBeginAtBoundaries : Obligations.OperationsBeginAtBoundaries := by
  refine ⟨fun s w rest hw hs hc hp => ?_, fun s p w rest hs hp => ?_⟩
  · obtain ⟨run, hstep⟩ := step_of_word hs
    obtain ⟨i, hd, hm⟩ := exists_changesMode hw
    rw [hstep]
    exact deliverCommand_stuck hd hm (by simp [portIdle, hc]) (by simp [portsIdle, portIdle, hp])
  · obtain ⟨run, hstep⟩ := step_of_word hs
    rw [hstep]
    exact deliverCommand_occupied ((portIdle_withEvents p rest s).trans hp)

/-! ### The first sample after ENABLE -/

/-- Settles O15: the priming sample leaves a cached value in whose window it lies, and ENABLE leaves the cached
values. -/
theorem primedChannelIsQuietAfterEnable : Obligations.PrimedChannelIsQuietAfterEnable := by
  intro s t u ch raw hch hm hsample henable
  obtain ⟨hprimes, hquiet⟩ := primingUpdatesWithoutEnqueueing s ch raw hch hm
  by_cases hin : Claims.InWindow (lrvRead s ch.toNat) raw
  · cases (hquiet hin).symm.trans hsample
    cases henable
    exact ⟨rfl, rfl, rfl, execSampleCc_inWindow hch hin⟩
  · cases (hprimes hin).symm.trans hsample
    cases henable
    exact ⟨rfl, rfl, rfl, execSampleCc_again hch rfl⟩

end Sys2Proof.Machine
end

section
/-! The operations that do not read the mode (spec/44_mode_control.md R195): what each shared operation does is the
same in any mode. -/

namespace Sys2Proof.Machine

open Sys2Proof.Claims

variable {s : State}

/-- The state with another mode. -/
def withMode (m : Mode) (s : State) : State := { s with mode := m }

/-- An operation whose outcome in another mode is the same, but for that mode (R195). -/
def IgnoresMode (run : State → Result) : Prop :=
  ∀ (m : Mode) (s : State), run (withMode m s) = mapNext (withMode m) (run s)

theorem IgnoresMode.andThen {f g : State → Result} (hf : IgnoresMode f) (hg : IgnoresMode g) :
    IgnoresMode (fun s => andThen (f s) g) := by
  intro m s
  simp only [hf m s]
  cases f s with
  | next t => exact hg m t
  | fault r | refused r => rfl

/-! ### The queue -/

/-- ENQ answers the same in another mode. -/
theorem enqueue_withMode (e : Entry) (m : Mode) (s : State) :
    enqueue e (withMode m s) = (withMode m (enqueue e s).1, (enqueue e s).2) := by
  by_cases hf : QueueFull s
  · rw [enqueue_full hf]
    exact enqueue_full (s := withMode m s) hf
  · rw [enqueue_success hf]
    exact enqueue_success (s := withMode m s) hf

theorem execEnq_ignoresMode (tag : BitVec 8) (value : BitVec 14) : IgnoresMode (execEnq tag value) := by
  intro m s
  rw [execEnq, execEnq, enqueue_withMode]
  rfl

/-- DEQ answers the same in another mode, a stop included. -/
theorem dequeue_withMode (m : Mode) (s : State) :
    dequeue (withMode m s) = andThen (dequeue s) (fun r => .next (withMode m r.1, r.2)) := by
  by_cases hq : QueueEmpty s
  · rw [dequeue_empty hq]
    exact dequeue_empty (s := withMode m s) hq
  · cases he : slotRead s (advance s.capacity s.rd) with
    | none =>
      rw [dequeue_unwritten hq he]
      exact dequeue_unwritten (s := withMode m s) hq he
    | some e =>
      rw [dequeue_success hq he]
      exact dequeue_success (s := withMode m s) hq he

theorem execDeq_ignoresMode : IgnoresMode execDeq := by
  intro m s
  rw [execDeq, execDeq, dequeue_withMode]
  cases dequeue s <;> rfl

/-! ### The drain -/

/-- A turn of the loop does not read the mode, so no number of them does (43_packetizer.md R178). -/
theorem drain_ignoresMode (k : Nat) : IgnoresMode (drain k) := by
  intro m s
  induction k generalizing s with
  | zero => rfl
  | succ k ih =>
    by_cases hr : Room s
    case neg =>
      rw [drain_noRoom hr]
      exact drain_noRoom (s := withMode m s) hr
    have hr' : Room (withMode m s) := hr
    simp only [drain, if_pos hr, if_pos hr', dequeue_withMode, andThen_assoc, andThen_next]
    cases dequeue s with
    | fault r | refused r => rfl
    | next r =>
      obtain ⟨t, _ | e⟩ := r
      · rfl
      · have hpacket : packetFor e (withMode m t) = packetFor e t := rfl
        simp only [andThen_next, hpacket]
        cases packetFor e t with
        | fault r | refused r => rfl
        | next p => exact ih (appendPacket p t)

/-- FN4 of a block that was never written (10_state.md R39). -/
theorem finishDrain_unwritten (h0 : s.txn ≠ 0) (hb : txBlock s s.txn = none) :
    finishDrain s = .fault .byteNotWritten := by
  simp only [finishDrain, if_neg h0, submit, hb, andThen_fault]

theorem finishDrain_ignoresMode : IgnoresMode finishDrain := by
  intro m s
  by_cases h0 : s.txn = 0
  · rw [finishDrain_nothing h0]
    exact finishDrain_nothing (s := withMode m s) h0
  · cases hb : txBlock s s.txn with
    | none =>
      rw [finishDrain_unwritten h0 hb]
      exact finishDrain_unwritten (s := withMode m s) h0 hb
    | some bytes =>
      rw [finishDrain_submit h0 hb]
      exact finishDrain_submit (s := withMode m s) h0 hb

theorem execFrameNotify_ignoresMode : IgnoresMode execFrameNotify := by
  intro m s
  cases hb : s.epBusy with
  | true =>
    rw [execFrameNotify_busy hb]
    exact execFrameNotify_busy (s := withMode m s) hb
  | false =>
    rw [execFrameNotify_idle hb, execFrameNotify_idle (s := withMode m s) hb]
    exact (drain_ignoresMode 16).andThen finishDrain_ignoresMode m { s with txn := 0 }

/-! ### The packet records -/

theorem recordPacket_ignoresMode (p : Packet) : IgnoresMode (recordPacket p) := by
  intro m s
  rcases recordPacket_cases p s with ⟨hb, h⟩ | ⟨hb, hr, h⟩ | ⟨hb, hr, h⟩ <;> rw [h]
  · exact recordPacket_inFlight (s := withMode m s) p hb
  · exact recordPacket_eq (s := withMode m s) p hb hr
  · exact recordPacket_full (s := withMode m s) p hb hr

/-- Settles O42: none of the five reads the mode. -/
theorem drainAndQueueIgnoreTheMode : Obligations.DrainAndQueueIgnoreTheMode :=
  fun s m => ⟨execFrameNotify_ignoresMode m s, execDeq_ignoresMode m s,
    fun tag value => execEnq_ignoresMode tag value m s,
    fun c v => ⟨recordPacket_ignoresMode (.control c v) m s, recordPacket_ignoresMode (.pitchBend c v) m s⟩⟩

end Sys2Proof.Machine
end

section
/-! While Disabled nothing is enqueued (spec/44_mode_control.md R197, R198, 40_quantizer.md R116): the filters ask for
no ENQ, and no ENQ is in progress. -/

namespace Sys2Proof.Machine

variable {s t : State}

/-- `wr` and the slots are as they were, and `rd` moved at most in an unchanged mode. -/
structure EnqueuesNothing (s t : State) : Prop where
  wr : t.wr = s.wr
  slots : t.slots = s.slots
  rd : t.rd = s.rd ∨ t.mode = s.mode

/-- The consumer's moves write neither `wr` nor a slot (20_memory.md R61). -/
theorem OnlyOwned.enqueuesNothing (h : OnlyOwned .T s t) : EnqueuesNothing s t where
  wr := h.wr_eq
  slots := by
    have hslots : t.slots = (withOwned .T t s).slots := congrArg State.slots h
    exact hslots
  rd := .inr h.mode_eq

/-- A move that leaves what the stream is made of leaves the queue. -/
theorem enqueuesNothing_of_part (h : t.streamPart = s.streamPart) : EnqueuesNothing s t := by
  simp only [State.streamPart, Prod.mk.injEq] at h
  obtain ⟨-, ⟨hrd, hwr, hslots⟩, -⟩ := h
  exact ⟨hwr, hslots, .inl hrd⟩

/-- While Disabled neither filter asks for an ENQ (R116, 41_pitchbend.md R135). -/
theorem sampleFront_of_disabled (hm : s.mode = .disabled) (op : SampleOp) : (sampleFront op s).2 = none := by
  cases op with
  | control res ch raw =>
    rcases quantizerFront_cases res ch raw s with
      ⟨-, h⟩ | ⟨-, -, h⟩ | ⟨-, -, -, h⟩ | ⟨-, -, -, -, h⟩ | ⟨-, -, -, hm', -⟩
    case inr.inr.inr.inr => cases hm.symm.trans hm'
    all_goals rw [sampleFront, h]
  | pitchBend res raw =>
    rcases pitchBendFront_cases res raw s with ⟨-, h⟩ | ⟨-, h⟩ | ⟨-, hm', -⟩ | ⟨-, -, h⟩
    case inr.inr.inl => cases hm.symm.trans hm'
    all_goals rw [sampleFront, h]

/-- A SAMPLE operation taken whole while Disabled ends with its filter's own lines. -/
theorem enqueuesNothing_sample (hm : s.mode = .disabled) (op : SampleOp) :
    EnqueuesNothing s (finishSample (sampleFront op s)) := by
  have hfront : sampleFront op s = ((sampleFront op s).1, none) := Prod.ext rfl (sampleFront_of_disabled hm op)
  rw [hfront, finishSample_ended]
  exact enqueuesNothing_of_part (sampleFront_streamPart op s)

/-- While Disabled the producer is at no micro-step of an ENQ (R197). -/
theorem enqueuesNothing_producerStep (hok : ProducerOk s) (hm : s.mode = .disabled) (h : producerStep s = .next t) :
    EnqueuesNothing s t := by
  rcases producer_of_disabled hok hm with hp | ⟨op, hp⟩
  · rw [producerStep_idle hp] at h
    cases h
    exact enqueuesNothing_of_part rfl
  · rw [producerStep_sampled hp] at h
    cases h
    exact enqueuesNothing_of_part ((afterFront_streamPart _).trans (sampleFront_streamPart op s))

section
variable {i : Instr} (hcmd : i.isCommand = true) (hm : s.mode = .disabled)
include hcmd hm

theorem enqueuesNothing_exec (h : exec i s = .next t) : EnqueuesNothing s t := by
  cases i with
  | sampleCc res ch raw => cases h; exact enqueuesNothing_sample hm (.control res ch raw)
  | samplePb res raw => cases h; exact enqueuesNothing_sample hm (.pitchBend res raw)
  | frameNotify => exact (execFrameNotify_owned h).enqueuesNothing
  | enable => cases h; exact ⟨rfl, rfl, .inl rfl⟩
  | disable => cases h; exact ⟨rfl, rfl, .inr hm.symm⟩
  | enq | deq | pktCc | pktPb => cases hcmd

theorem enqueuesNothing_beginOperation (h : beginOperation i s = .next t) : EnqueuesNothing s t := by
  cases i with
  | sampleCc | samplePb | frameNotify => cases h; exact ⟨rfl, rfl, .inl rfl⟩
  | enable | disable => exact enqueuesNothing_exec hcmd hm h
  | enq | deq | pktCc | pktPb => cases hcmd

end

theorem enqueuesNothing_deliverCommand {p : Port} {w : CmdWord} {run : Instr → State → Result}
    (hrun : ∀ i : Instr, i.isCommand = true → run i s = .next t → EnqueuesNothing s t)
    (h : deliverCommand p w run s = .next t) : EnqueuesNothing s t := by
  rcases deliverCommand_eq_next h with ⟨-, -, rfl⟩ | ⟨-, i, hi, hb⟩
  · exact enqueuesNothing_of_part (setStatus_streamPart p .illegalOp s)
  · obtain ⟨-, -, hcmd⟩ := decodeCmd_eq_ok hi
    obtain ⟨-, -, hnext⟩ := atBoundary_eq_next hb
    exact hrun i hcmd hnext

/-- No move of the outside but RESET enqueues while Disabled (70_reset_and_hazards.md R250). -/
theorem enqueuesNothing_deliver (hok : ProducerOk s) (hm : s.mode = .disabled) {e : Event} (he : e.external = true)
    (hr : e ≠ .reset) (h : deliver e s = .next t) : EnqueuesNothing s t := by
  cases e with
  | command p w => exact enqueuesNothing_deliverCommand (fun _ hcmd => enqueuesNothing_exec hcmd hm) h
  | present p w => exact enqueuesNothing_deliverCommand (fun _ hcmd => enqueuesNothing_beginOperation hcmd hm) h
  | micro p =>
    cases p with
    | P => exact enqueuesNothing_producerStep hok hm h
    | T => exact (consumerStep_owned h).enqueuesNothing
  | transferDone =>
    simp only [deliver, transferDone] at h
    split at h <;> cases h
    exact ⟨rfl, rfl, .inl rfl⟩
  | reset => exact absurd rfl hr
  | enterIdle =>
    simp only [deliver, enterIdle] at h
    split at h <;> cases h
    exact ⟨rfl, rfl, .inl rfl⟩
  | transportRead off =>
    simp only [deliver, transportRead] at h
    split at h <;> cases h
    exact ⟨rfl, rfl, .inl rfl⟩
  | request | record => cases he

theorem enqueuesNothing_step (h : Inv s) (hm : s.mode = .disabled) (hr : s.events.head? ≠ some .reset)
    (hstep : step s = .next t) : EnqueuesNothing s t := by
  cases hs : s.events with
  | nil =>
    rw [step_of_empty hs] at hstep
    cases hstep
    exact ⟨rfl, rfl, .inl rfl⟩
  | cons e rest =>
    obtain ⟨he, hrest⟩ := h.tail hs
    rw [step_of_cons hs] at hstep
    have hne : e ≠ .reset := fun heq => hr (by rw [hs, heq, List.head?_cons])
    exact { enqueuesNothing_deliver hrest.producer hm he hne hstep with }

/-- Settles O44: where the step leaves the mode Disabled the invariant says that the queue is empty, and where it does
not `rd` stays at `wr`. -/
theorem nothingIsEnqueuedWhileDisabled : Obligations.NothingIsEnqueuedWhileDisabled := by
  intro s t h hm hr hstep
  obtain ⟨hwr, hslots, hrd | hmode⟩ := enqueuesNothing_step h hm hr hstep
  · exact ⟨hwr, hslots, hrd.trans ((h.disabled hm).trans hwr.symm)⟩
  · exact ⟨hwr, hslots, (everyStepKeepsTheInvariant s t h hstep).disabled (hmode.trans hm)⟩

end Sys2Proof.Machine
end

section
/-! The Sampler's failures (spec/60_exceptions.md R201, R202): each way a SAMPLE operation ends before it looks at the
sample is a status report. -/

namespace Sys2Proof.Machine

variable {s : State} {res : SamplerResult} {ch : BitVec 8} {raw : RawSample}

/-- Line 1 of 40_quantizer.md R114. -/
theorem execSampleCc_invalid (hbad : s.channels ≤ ch.toNat ∨ res = .invalidChannel) :
    execSampleCc res ch raw s = .next { s with pstat := .invalidChannel } := by
  rw [execSampleCc, quantizerFront, if_pos hbad]
  rfl

/-- Line 2 of 40_quantizer.md R114. -/
theorem execSampleCc_unavailable (hch : ch.toNat < s.channels) :
    execSampleCc .unavailable ch raw s = .next { s with pstat := .sampleTimeout } := by
  rw [execSampleCc, quantizerFront, if_neg (by simpa using hch), if_pos rfl]
  rfl

/-- Settles O7: lines 1 and 2 of each operation end it, before its filter reads or writes anything. -/
theorem samplerFailuresChangeOnlyTheStatus : Obligations.SamplerFailuresChangeOnlyTheStatus :=
  ⟨fun _ _ _ _ => execSampleCc_invalid, fun _ _ _ => execSampleCc_unavailable, fun _ _ => rfl, fun _ _ => rfl⟩

end Sys2Proof.Machine
end

section
/-! What one SAMPLE_PB of a sample does, by the test that decides it (spec/41_pitchbend.md R135, R136). -/

namespace Sys2Proof.Machine

open Sys2Proof.Claims

variable {s : State} {raw : RawSample}

/-- Line 7 of R136: nothing is sent. -/
theorem execSamplePb_quiet (hold : s.mode = .disabled ∨ s.ls = some (bendOf s.sm raw)) :
    execSamplePb .sample raw s = .next { s with sm := smooth s.sm raw, pstat := .noEvent } := by
  have hno : ¬ (s.mode = .enabled ∧ some (bendOf s.sm raw) ≠ s.ls) := by
    rintro ⟨hm, hnew⟩
    exact not_disabled_or_sent hm hnew.symm hold
  rw [bendOf_eq] at hno
  simp only [execSamplePb, pitchBendFront, reduceCtorEq, if_false, if_neg hno, finishSample_ended]
  rfl

/-- Line 6 of R136: a new value while Enabled asks for one ENQ (R135). -/
theorem pitchBendFront_reports (hm : s.mode = .enabled) (hnew : s.ls ≠ some (bendOf s.sm raw)) :
    pitchBendFront .sample raw s = ({ s with sm := smooth s.sm raw }, some (.pitchBend (bendOf s.sm raw))) := by
  rw [bendOf_eq] at hnew ⊢
  simp only [pitchBendFront, reduceCtorEq, if_false, if_pos (And.intro hm hnew.symm)]

/-- Line 6 of R136: a new value while Enabled, and ENQ had room (R135). -/
theorem execSamplePb_enqueues (hm : s.mode = .enabled) (hnew : s.ls ≠ some (bendOf s.sm raw)) (hq : ¬ QueueFull s) :
    execSamplePb .sample raw s = .next { s with
      sm := smooth s.sm raw
      ls := some (bendOf s.sm raw)
      slots := Memory.write s.slots (advance s.capacity s.wr) (bendEntry (bendOf s.sm raw))
      wr := advance s.capacity s.wr
      pstat := .enqueued
      enqAnswer := some (answerWord true 0#24) } := by
  rw [execSamplePb, pitchBendFront_reports hm hnew,
    finishSample_pitchBend (s := { s with sm := smooth s.sm raw }) hq]
  rfl

/-- Line 6 of R136: a new value while Enabled, and the queue was full: `ls` stays (R135). -/
theorem execSamplePb_drops (hm : s.mode = .enabled) (hnew : s.ls ≠ some (bendOf s.sm raw)) (hq : QueueFull s) :
    execSamplePb .sample raw s = .next { s with
      sm := smooth s.sm raw
      pstat := .queueFull
      enqAnswer := some (answerWord false 0#24) } := by
  rw [execSamplePb, pitchBendFront_reports hm hnew,
    finishSample_full (s := { s with sm := smooth s.sm raw }) hq]

end Sys2Proof.Machine
end

section
/-! A report the full queue dropped is tried again (spec/60_exceptions.md R203, 40_quantizer.md R119, 41_pitchbend.md
R143): it changed no cached value, and a DEQ makes room. -/

namespace Sys2Proof.Machine

open Sys2Proof.Claims

variable {s : State}

/-! ### A DEQ of a full queue -/

section
variable (hc : 2 ≤ s.capacity) (hi : IndicesOk s) (hf : QueueFull s)
include hc hi hf

/-- With two slots or more, `full` and `empty` exclude each other (10_state.md R27). -/
theorem not_queueEmpty_of_full : ¬ QueueEmpty s := by
  intro he
  have hcount := (queueFull_iff hi).1 hf
  rw [(queueCount_eq_zero_iff s hi.1 hi.2).2 he] at hcount
  omega

/-- Once `rd` has moved on, a queue that was full has room (42_event_queue.md R155). -/
theorem not_queueFull_of_taken : ¬ QueueFull { s with rd := advance s.capacity s.rd } := fun hfull =>
  not_queueEmpty_of_full hc hi hf ((advance_inj hi.2 hi.1).1 hfull).symm

/-- A DEQ of a full queue completes and moves `rd`, so that there is room. -/
theorem exec_deq_makesRoom (hw : (slotRead s (advance s.capacity s.rd)).isSome = true) :
    ∃ da, exec .deq s = .next { s with rd := advance s.capacity s.rd, deqAnswer := da } ∧
      ¬ QueueFull { s with rd := advance s.capacity s.rd, deqAnswer := da } := by
  obtain ⟨e, he⟩ := Option.isSome_iff_exists.1 hw
  exact ⟨_, exec_deq_entry (not_queueEmpty_of_full hc hi hf) he, not_queueFull_of_taken hc hi hf⟩

end

/-! ### The two retries -/

/-- A sample within the noise gate of the smoothed position has the value that position had (41_pitchbend.md R143;
decision D13). -/
theorem bendOf_smooth_gated {sm : Int} {raw next : RawSample} (hlo : -31 ≤ deltaOf (smooth sm raw) next)
    (hhi : deltaOf (smooth sm raw) next ≤ 31) : bendOf (smooth sm raw) next = bendOf sm raw := by
  rw [bendOf, smoothed_gated hlo hhi, bendOf, smoothed_eq]

/-- Settles O14: the dropped report changed neither the cached value nor the queue, so after the DEQ the next sample
meets the same test and room. -/
theorem droppedReportIsRetried : Obligations.DroppedReportIsRetried := by
  refine ⟨fun s ch raw hch hm hout hc hi hf hw => ?_, fun s raw hm hnew hc hi hf hw => ?_⟩
  · have hdrop := execSampleCc_drops hch hm hout hf
    obtain ⟨da, hdeq, hroom⟩ :=
      exec_deq_makesRoom (s := { s with pstat := .queueFull, enqAnswer := some (answerWord false 0#24) }) hc hi hf hw
    exact ⟨_, _, _, hdrop, rfl, hdeq, execSampleCc_enqueues hch hm hout hroom, rfl, lrvRead_of_set hch _ rfl,
      Memory.read_write_same _ _ _⟩
  · have hdrop := execSamplePb_drops hm hnew hf
    obtain ⟨da, hdeq, hroom⟩ := exec_deq_makesRoom (s := { s with
      sm := smooth s.sm raw, pstat := .queueFull, enqAnswer := some (answerWord false 0#24) }) hc hi hf hw
    refine ⟨_, _, hdrop, rfl, rfl, hdeq, fun next => ⟨fun hdiff => ?_, fun hlo hhi => ?_⟩⟩
    · exact ⟨_, execSamplePb_enqueues hm hdiff hroom, rfl, rfl, Memory.read_write_same _ _ _⟩
    · have hsame := bendOf_smooth_gated hlo hhi
      exact ⟨hsame, hsame ▸ hnew⟩

end Sys2Proof.Machine
end

section
/-! What a SAMPLE operation sees of the consumer's side (spec/60_exceptions.md R212, 42_event_queue.md R162): `rd`, in
EQ1's test, and nothing else. Whatever else stands there, the operation takes the same way. -/

namespace Sys2Proof.Machine

open Sys2Proof.Claims

theorem execSampleCc_withConsumerSide (res : SamplerResult) (ch : BitVec 8) (raw : RawSample) (u s : State) :
    execSampleCc res ch raw (withConsumerSide u s) = mapNext (withConsumerSide u) (execSampleCc res ch raw s) := by
  obtain ⟨t, ht⟩ : ∃ t, execSampleCc res ch raw s = .next t := ⟨_, rfl⟩
  rw [ht]
  cases execSampleCc_move ht with
  | invalid hbad => exact execSampleCc_invalid (s := withConsumerSide u s) hbad
  | unavailable hch hres => subst hres; exact execSampleCc_unavailable (s := withConsumerSide u s) hch
  | inWindow hch hres hin => subst hres; exact execSampleCc_inWindow (s := withConsumerSide u s) hch hin
  | primed hch hres hm hout => subst hres; exact execSampleCc_primes (s := withConsumerSide u s) hch hm hout
  | enqueued hch hres hm hout hq => subst hres; exact execSampleCc_enqueues (s := withConsumerSide u s) hch hm hout hq
  | dropped hch hres hm hout hq => subst hres; exact execSampleCc_drops (s := withConsumerSide u s) hch hm hout hq

theorem execSamplePb_withConsumerSide (res : SamplerResult) (raw : RawSample) (u s : State) :
    execSamplePb res raw (withConsumerSide u s) = mapNext (withConsumerSide u) (execSamplePb res raw s) := by
  obtain ⟨t, ht⟩ : ∃ t, execSamplePb res raw s = .next t := ⟨_, rfl⟩
  rw [ht]
  cases execSamplePb_move ht with
  | invalid hres | unavailable hres => subst hres; rfl
  | quiet hres hold => subst hres; exact execSamplePb_quiet (s := withConsumerSide u s) hold
  | enqueued hres hm hnew hq => subst hres; exact execSamplePb_enqueues (s := withConsumerSide u s) hm hnew hq
  | dropped hres hm hnew hq => subst hres; exact execSamplePb_drops (s := withConsumerSide u s) hm hnew hq

/-- Settles O43: the tests that choose the way through an operation, and the writes on it, are the producer's own but
for `rd`. -/
theorem sampleOperationsIgnoreTheConsumerSide : Obligations.SampleOperationsIgnoreTheConsumerSide :=
  fun s u => ⟨fun res ch raw => execSampleCc_withConsumerSide res ch raw u s,
    fun res raw => execSamplePb_withConsumerSide res raw u s⟩

end Sys2Proof.Machine
end

section
/-! The environment's own events that are no TRANSFER_DONE: RESET, idle entry and the transport's reads
(spec/70_reset_and_hazards.md R230, R243, R250). Each is taken exactly where its rule enables it, and RESET alone
changes anything. -/

namespace Sys2Proof.Machine

variable {s : State}

/-- One operation in progress, on either port, is enough (44_mode_control.md R193). -/
theorem portsIdle_eq_false_iff : portsIdle s = false ↔ s.producer ≠ .idle ∨ s.consumer ≠ .idle := by
  rw [← Bool.not_eq_true, portsIdle_iff, not_and_or]

/-! ### RESET -/

/-- Every last reported value is 0 after reset (10_state.md R39), those outside the register file as well. -/
theorem lrvRead_of_lrv_replicate {n : Nat} (h : s.lrv = List.replicate n 0#7) (i : Nat) : lrvRead s i = 0#7 := by
  rw [lrvRead, h, List.getD_eq_getElem?_getD, List.getElem?_getD_replicate_default_eq]

/-- An empty slot memory holds no entry anywhere (10_state.md R39, log 7). -/
theorem slotRead_of_slots_nil (h : s.slots = []) (i : Nat) : slotRead s i = none := by
  rw [slotRead, h, Memory.read_nil]

/-- An empty transmit buffer holds no byte anywhere (10_state.md R39, log 7). -/
theorem txRead_of_tx_nil (h : s.tx = []) (off : Nat) : txRead s off = none := by
  rw [txRead, h, Memory.read_nil]

theorem resetStep_enabled (h : portsIdle s = true) :
    resetStep s = .next { State.resetWith s.channels s.capacity with events := s.events } := if_pos h

theorem resetStep_stuck (h : portsIdle s = false) : resetStep s = .fault .stuckReset := if_neg (by simp [h])

/-- Settles O54: while both ports are idle RESET is taken, and its state is the one of R39 for the same parameters;
one busy port stops it. -/
theorem resetPutsEveryRegisterAtItsResetValue : Obligations.ResetPutsEveryRegisterAtItsResetValue := by
  intro s rest hs
  rw [step_of_cons hs]
  refine ⟨fun hprod hcons => ⟨_, resetStep_enabled (portsIdle_iff.2 ⟨hprod, hcons⟩), ?_⟩,
    fun hbusy => resetStep_stuck (portsIdle_eq_false_iff.2 hbusy)⟩
  exact ⟨rfl, rfl, rfl, List.length_replicate, fun i _ => lrvRead_of_lrv_replicate rfl i, rfl, rfl, rfl, rfl, rfl,
    rfl, rfl, slotRead_of_slots_nil rfl, txRead_of_tx_nil rfl, rfl, rfl, rfl, rfl⟩

/-! ### Idle entry and the transport's reads -/

theorem enterIdle_enabled (h : portsIdle s = true) : enterIdle s = .next s := if_pos h

theorem enterIdle_stuck (h : portsIdle s = false) : enterIdle s = .fault .stuckIdle := if_neg (by simp [h])

theorem transportRead_enabled {off : Nat} (hb : s.epBusy = true) (hoff : off < s.txn) :
    transportRead off s = .next s := if_pos ⟨hb, hoff⟩

/-- A read wants a transfer in flight and a byte of it (20_memory.md R70, 43_packetizer.md R182). -/
theorem transportRead_stuck {off : Nat} (h : s.epBusy = false ∨ s.txn ≤ off) :
    transportRead off s = .fault .stuckTransportRead := by
  refine if_neg fun ⟨hb, hoff⟩ => ?_
  rcases h with hidle | hout
  · cases hb.symm.trans hidle
  · exact absurd hoff (Nat.not_lt.2 hout)

/-- Settles O55: the event comes off the schedule, and its test finds the ports, the busy bit and `txn` as they were. -/
theorem idleEntryAndTransportReadsChangeNothing : Obligations.IdleEntryAndTransportReadsChangeNothing := by
  refine ⟨fun s rest hs => ?_, fun s rest off hs => ?_⟩ <;> rw [step_of_cons hs]
  · exact ⟨enterIdle_enabled (s := { s with events := rest }), enterIdle_stuck (s := { s with events := rest })⟩
  · exact ⟨transportRead_enabled (s := { s with events := rest }),
      transportRead_stuck (s := { s with events := rest })⟩

end Sys2Proof.Machine
end
